-- ==== Sys2Proof/Word.lean ====
section
/-! DEFINITION. The 64-bit word of the block and the operators of 00_scope.md rules R8 and R9. -/

namespace Sys2Proof

/-- A register, an operand lane or a response: 64 bits, bit 0 least significant (R8). -/
abbrev Word := BitVec 64

/-- A byte of the host's bus (R32); the block itself never splits a word into bytes. -/
abbrev Byte := BitVec 8

/-- `uval` of R8: the unsigned reading, the only one the block's own arithmetic uses. -/
abbrev uval (v : Word) : Nat := v.toNat

/-- `sval` of R8: the two's-complement reading, used by host-side derivations only. -/
abbrev sval (v : Word) : Int := v.toInt

/-- `u *w v` of R9: the low 64 bits of the product. -/
abbrev mulw (u v : Word) : Word := u * v

/-- `u +w v` of R9: the sum modulo 2^64. -/
abbrev addw (u v : Word) : Word := u + v

/-- `u umod v` of R9: the remainder of the unsigned division, for `v` not zero. -/
abbrev umod (u v : Word) : Word := BitVec.umod u v

end Sys2Proof
end

