-- ==== Sys2Proof/Config.lean ====
section
/-! DEFINITION. The parameters of 00_scope.md rules R6 and R7: the default constants of the block, and the open
parameters of a model of the host. VALIDATE_PARAMS stands in State (log entry 2). -/

namespace Sys2Proof.Config

/-- `DEFAULT_M` of R7: 2^64 - 1. -/
def defaultM : Word := 0xFFFFFFFFFFFFFFFF#64

/-- `DEFAULT_A` of R7. -/
def defaultA : Word := 6364136223846793005#64

/-- `DEFAULT_C` of R7. -/
def defaultC : Word := 1442695040888963407#64

/-- The default of VALIDATE_PARAMS (R6). -/
def validateParamsDefault : Bool := false

/-- HOST_BYTE_ORDER (R6, R32): the order of the bytes of a word on the host's bus. DESIGN CHOICE, unsafe (log entry 11):
the spec lists no values for this open parameter; the model has these two, one order for the 4-byte and the 8-byte words
alike, and no mixed or word-swapped order. -/
inductive HostByteOrder where
  /-- Least significant byte at the lowest address. -/
  | little
  /-- Most significant byte at the lowest address. -/
  | big
  deriving DecidableEq, Repr

/-- The interfaces of the block that a host may place in its own address space (R31, R35). -/
inductive HostPort where
  /-- The command word `CW`. -/
  | cw
  /-- Lane `OPM`. -/
  | opm
  /-- Lane `OPA`. -/
  | opa
  /-- Lane `OPC`. -/
  | opc
  /-- Lane `OPS`. -/
  | ops
  /-- The response port. -/
  | response
  /-- The status word. -/
  | status
  /-- The reset input. -/
  | reset
  deriving DecidableEq, Repr

/-- HOST_DOUBLE_ARITH (42_host_derivations.md R80): what `abs`, the conversion to `double` and the division mean.
A `double` that results from a 64-bit integer is given by its exact value, an integer; the quotient is given by its
binary64 bit pattern. -/
structure HostDoubleArith where
  /-- `abs` on the signed 64-bit result of next.long. -/
  abs : Int → Int
  /-- The conversion of a 64-bit integer to `double`. -/
  toDouble : Int → Int
  /-- The division of two such doubles, as a binary64 bit pattern. -/
  div : Int → Int → Word

/-- The three open parameters of a model of the host (R6); the block reads none of them. -/
structure HostParams where
  /-- HOST_BYTE_ORDER (R32). -/
  byteOrder : HostByteOrder
  /-- HOST_PORT_MAP (R35): the address of each port. -/
  portMap : HostPort → Nat
  /-- HOST_DOUBLE_ARITH (R80). -/
  doubleArith : HostDoubleArith

end Sys2Proof.Config
end

