-- ==== Sys2Proof/Syntax.lean ====
section
/-! DEFINITION. The command tuple of 30_encoding.md rule R43 and the decoded commands, one constructor per row of
spec/opcode_table.json. -/

namespace Sys2Proof

/-- A command as the host presents it (R43): the command word and the four operand lanes. -/
structure Command where
  /-- `CW`, the command word. -/
  cw : BitVec 32
  /-- `OPM`, the modulus lane. -/
  opm : Word
  /-- `OPA`, the multiplier lane. -/
  opa : Word
  /-- `OPC`, the increment lane. -/
  opc : Word
  /-- `OPS`, the seed lane. -/
  ops : Word
  deriving DecidableEq, Repr

/-- The `OPCODE` field, bits 3:0 of the command word (R44). -/
def Command.opcode (c : Command) : BitVec 4 := c.cw.extractLsb' 0 4

/-- The `RZ` field, bits 31:4 of the command word, reserved, must be zero (R44). -/
def Command.rz (c : Command) : BitVec 28 := c.cw.extractLsb' 4 28

/-- The four commands (R45), each with the values of the lanes it uses (R46). -/
inductive Instr where
  /-- `NOP` (R57). -/
  | nop
  /-- `CFG_DEFAULT` (R58) with the seed of lane `OPS`. -/
  | cfgDefault (seed : Word)
  /-- `CFG_FULL` (R59) with modulus, multiplier, increment and seed. -/
  | cfgFull (m a c seed : Word)
  /-- `STEP` (R63). -/
  | step
  deriving DecidableEq, Repr

end Sys2Proof
end

