-- ==== Sys2Proof/Machine/State.lean ====
section
/-! DEFINITION. The state of the block and of its ports (10_state.md rules R14, R23, R25, R30; 30_encoding.md R43;
70_reset_and_hazards.md R102), the state after reset, and the reasons a step can stop. -/

namespace Sys2Proof.Machine

/-- The faults of 60_exceptions.md R86. Raising one is a NEXT state (`State.raise`), not a stop of the model. -/
inductive FaultCode where
  /-- `ILLEGAL_CMD`: raised by an illegal command word (R91). -/
  | illegalCmd
  /-- `NOT_CONFIGURED`: raised by STEP while CFG_VALID = 0 (R92). -/
  | notConfigured
  /-- `MOD_ZERO`: raised by STEP while MOD = 0 (R93). -/
  | modZero
  /-- `INVALID_PARAM`: raised by CFG_FULL, and checked by CFG_DEFAULT, under VALIDATE_PARAMS (R94). -/
  | invalidParam
  deriving DecidableEq, Repr

/-- Why a step stops with no next state. -/
inductive Fault where
  /-- Raised by every command offered while FAULTED = 1: the halted block has no step for any command until reset
  (R89). SAFE: the model stops where the block stays as it is (log entry 3). -/
  | halted
  deriving DecidableEq, Repr

/-- Why a command has no meaning in the model. -/
inductive Refusal where
  /-- Raised by an arm of `exec` whose command has no meaning yet; no arm does. SAFE: the model stops. -/
  | notModelled (mnemonic : String)
  deriving DecidableEq, Repr

/-- The state: the seven items of R14, the build parameter VALIDATE_PARAMS of R6, and what is pending at the block's
three ports. -/
structure State where
  /-- `MOD`, the modulus m (R15). -/
  mod : Word
  /-- `MUL`, the multiplier a (R16). -/
  mul : Word
  /-- `INC`, the increment c (R17). -/
  inc : Word
  /-- `STATE`, the value X (R18). -/
  state : Word
  /-- `CFG_VALID` (R20). -/
  cfgValid : Bool
  /-- `FAULTED` (R21). -/
  faulted : Bool
  /-- `FCODE` (R22). -/
  fcode : BitVec 4
  /-- `VALIDATE_PARAMS` (R6), hardwired: no step changes it (log entry 2). -/
  validateParams : Bool
  /-- The response port (R25): responses not yet read, oldest first (log entry 6). -/
  responses : List Word
  /-- The command port (R43): commands offered and not yet accepted, in the order offered (log entry 5). -/
  commands : List Command
  /-- The reset input (R102): the host asserts reset, not yet taken (log entry 7). -/
  resetLine : Bool
  deriving DecidableEq, Repr

/-- The state after reset of R30, for a block built with the given VALIDATE_PARAMS. DESIGN CHOICE (unsafe, log entry 1):
the four data registers, which hold no value in the spec, are 0. -/
def State.resetWith (validate : Bool) : State where
  mod := 0
  mul := 0
  inc := 0
  state := 0
  cfgValid := false
  faulted := false
  fcode := 0
  validateParams := validate
  responses := []
  commands := []
  resetLine := false

/-- The state after reset of R30 under R6's default of VALIDATE_PARAMS. -/
def State.reset : State := State.resetWith Config.validateParamsDefault

end Sys2Proof.Machine
end

