-- ==== Sys2Proof/Machine/Flags.lean ====
section
/-! DEFINITION. The status word (10_state.md R23), the fault codes (60_exceptions.md R86) and the validation predicate
(40_configuration.md R60). -/

namespace Sys2Proof.Machine

/-- The value of a fault in `FCODE` (R86). -/
def FaultCode.code : FaultCode → BitVec 4
  | .illegalCmd => 0x1#4
  | .notConfigured => 0x2#4
  | .modZero => 0x3#4
  | .invalidParam => 0x4#4

/-- `valid(m, a, c)` of R60, all comparisons unsigned. -/
def valid (m a c : Word) : Bool :=
  m != 0#64 && a != 0#64 && a.ult m && c.ult m

/-- Bits 31:9 zero, bit 8 VALIDATE, bits 7:4 FCODE, bits 3:2 zero, bit 1 FAULTED, bit 0 CFG_VALID (R23).
Reading it is this function of the state: it has no side effect (R24). -/
def State.statusWord (s : State) : BitVec 32 :=
  0#23 ++ BitVec.ofBool s.validateParams ++ s.fcode ++ 0#2 ++ BitVec.ofBool s.faulted ++ BitVec.ofBool s.cfgValid

end Sys2Proof.Machine
end

