-- ==== Sys2Proof/Machine/Ops.lean ====
section
/-! DEFINITION. The operations the meanings share: raising a fault, the halt rule, reset, writing a configuration, the
three stages of the state update and the response. -/

namespace Sys2Proof.Machine

/-- `raise Fault(code)` of 60_exceptions.md R88: FAULTED and FCODE are written and nothing else; no response. -/
def State.raise (code : FaultCode) (s : State) : State :=
  { s with faulted := true, fcode := code.code }

/-- The way out of a fault (R97): reset, 70_reset_and_hazards.md R102. Every item takes its reset value of R30 and
unread responses are discarded; VALIDATE_PARAMS is built in, and what the host offers on the command port is the
host's and stays offered (log entries 2, 5, 7). -/
def State.takeReset (s : State) : State :=
  { State.resetWith s.validateParams with commands := s.commands }

/-- The halt rule, R89: while FAULTED = 1 a command has no step. -/
def unlessHalted (s : State) (run : State → Host.Outcome State Fault Refusal) : Host.Outcome State Fault Refusal :=
  if s.faulted then .fault .halted else run s

/-- The four registers of a configuration and CFG_VALID, written at once (40_configuration.md R61). -/
def State.configure (m a c seed : Word) (s : State) : State :=
  { s with mod := m, mul := a, inc := c, state := seed, cfgValid := true }

/-- The body that CFG_DEFAULT (R58) and CFG_FULL (R59) share: the check of VALIDATE_PARAMS, then the writes. -/
def configureChecked (m a c seed : Word) (s : State) : State :=
  if s.validateParams && !valid m a c then s.raise .invalidParam else s.configure m a c seed

/-- MUL stage, 41_state_update.md R64. -/
def mulStage (mul x : Word) : Word := mulw mul x

/-- ADD stage, R65. -/
def addStage (p inc : Word) : Word := addw p inc

/-- RED stage, R66; evaluated for `mod` not zero only (R69). -/
def redStage (q mod : Word) : Word := umod q mod

/-- One step of the recurrence: MUL, ADD, RED (R63, R71). -/
def lcgNext (mod mul inc x : Word) : Word := redStage (addStage (mulStage mul x) inc) mod

/-- STATE takes the next value (R66) and the old one goes to the response port, after every earlier response
(R67, 10_state.md R25). -/
def State.advance (s : State) : State :=
  { s with state := lcgNext s.mod s.mul s.inc s.state, responses := s.responses ++ [s.state] }

/-- The next state of an outcome, if it is one. -/
def nextOf : Host.Outcome State Fault Refusal → Option State
  | .next s => some s
  | .fault _ => none
  | .refused _ => none

end Sys2Proof.Machine
end

