-- ==== Sys2Proof/Machine/Configuration.lean ====
section
/-! DEFINITION. The meanings of NOP, CFG_DEFAULT and CFG_FULL (40_configuration.md). -/

namespace Sys2Proof.Machine

/-- `NOP`, R57: no register is read or written, no response. -/
def execNop (s : State) : Host.Outcome State Fault Refusal :=
  unlessHalted s fun s => .next s

/-- `CFG_DEFAULT`, R58: the constants of 00_scope.md R7 and the seed. -/
def execCfgDefault (seed : Word) (s : State) : Host.Outcome State Fault Refusal :=
  unlessHalted s fun s => .next (configureChecked Config.defaultM Config.defaultA Config.defaultC seed s)

/-- `CFG_FULL`, R59: the four values of the lanes. -/
def execCfgFull (m a c seed : Word) (s : State) : Host.Outcome State Fault Refusal :=
  unlessHalted s fun s => .next (configureChecked m a c seed s)

end Sys2Proof.Machine
end

