-- ==== Sys2Proof/Machine/StateUpdate.lean ====
section
/-! DEFINITION. The meaning of STEP (41_state_update.md). -/

namespace Sys2Proof.Machine

/-- `STEP`, R63: the checks NOT_CONFIGURED (R68) and MOD_ZERO (R69) in that order (60_exceptions.md R90), then the
three stages and the response. -/
def execStep (s : State) : Host.Outcome State Fault Refusal :=
  unlessHalted s fun s =>
    if !s.cfgValid then .next (s.raise .notConfigured)
    else if s.mod = 0#64 then .next (s.raise .modZero)
    else .next s.advance

end Sys2Proof.Machine
end

