-- ==== Sys2Proof/Machine/Dispatch.lean ====
section
/-! DEFINITION. The meaning of each command, one arm per constructor of Instr. -/

namespace Sys2Proof.Machine

def exec (i : Instr) (s : State) : Host.Outcome State Fault Refusal :=
  match i with
  | .nop => Sys2Proof.Machine.execNop s
  | .cfgDefault seed => Sys2Proof.Machine.execCfgDefault seed s
  | .cfgFull m a c seed => Sys2Proof.Machine.execCfgFull m a c seed s
  | .step => Sys2Proof.Machine.execStep s

end Sys2Proof.Machine
end

