-- ==== Sys2Proof/Decode.lean ====
section
/-! DEFINITION. The decoder of 30_encoding.md rule R52, total on every command, and the encoder written from the
opcode map R45 and the lane table R46. -/

namespace Sys2Proof

/-- Why a command is illegal; both raise ILLEGAL_CMD (R91). -/
inductive Illegal where
  /-- `RZ` is not zero (R49). -/
  | rzNotZero
  /-- `OPCODE` is 0x4 to 0xF (R48). -/
  | opcodeReserved
  deriving DecidableEq, Repr

/-- What the decoder answers (R52). -/
inductive Decoded where
  /-- One of the four commands. -/
  | command (i : Instr)
  /-- ILLEGAL, with the reason. -/
  | illegal (why : Illegal)
  deriving DecidableEq, Repr

/-- R52: `RZ` first, then the opcode; only the lanes of R46 are read. -/
def decode (c : Command) : Decoded :=
  if c.rz ≠ 0#28 then .illegal .rzNotZero
  else if c.opcode = 0x0#4 then .command .nop
  else if c.opcode = 0x1#4 then .command (.cfgDefault c.ops)
  else if c.opcode = 0x2#4 then .command (.cfgFull c.opm c.opa c.opc c.ops)
  else if c.opcode = 0x3#4 then .command .step
  else .illegal .opcodeReserved

/-- The command of a decoding, if it is one. -/
def Decoded.toOption : Decoded → Option Instr
  | .command i => some i
  | .illegal _ => none

/-- The command words of R45, the lanes of R46, and zero in every ignored lane (R53). -/
def encode : Instr → Command
  | .nop => ⟨0x00000000#32, 0, 0, 0, 0⟩
  | .cfgDefault seed => ⟨0x00000001#32, 0, 0, 0, seed⟩
  | .cfgFull m a c seed => ⟨0x00000002#32, m, a, c, seed⟩
  | .step => ⟨0x00000003#32, 0, 0, 0, 0⟩

/-- A command laid out as one number: `CW` in bits 31:0, then `OPM`, `OPA`, `OPC`, `OPS`, 64 bits each. -/
def Command.ofNat (v : Nat) : Command :=
  ⟨BitVec.ofNat 32 v, BitVec.ofNat 64 (v / 2 ^ 32), BitVec.ofNat 64 (v / 2 ^ 96), BitVec.ofNat 64 (v / 2 ^ 160),
    BitVec.ofNat 64 (v / 2 ^ 224)⟩

/-- The number whose layout `Command.ofNat` reads. -/
def Command.toNat (c : Command) : Nat :=
  c.cw.toNat + 2 ^ 32 * (c.opm.toNat + 2 ^ 64 * (c.opa.toNat + 2 ^ 64 * (c.opc.toNat + 2 ^ 64 * c.ops.toNat)))

/-- The command whose first `nbits` bits are those of `w` and whose other bits are zero. -/
def Command.ofTableWord (nbits w : Nat) : Command := Command.ofNat (w % 2 ^ nbits)

/-- The instruction the decoder reads from the bits `w` of a row of spec/opcode_table.json. -/
def decodeTableWord (nbits w : Nat) : Option Instr := (decode (Command.ofTableWord nbits w)).toOption

end Sys2Proof
end

