-- ==== Sys2Proof/Machine/Port.lean ====
section
/-! DEFINITION. The block's ports: what the block does next, and what the host may do between two steps
(10_state.md R13; 60_exceptions.md R90; 70_reset_and_hazards.md R102, R110). -/

namespace Sys2Proof.Machine

/-- What the block does at its next step. -/
inductive PortEvent where
  /-- Nothing is offered and reset is not asserted: nothing happens (log entry 4). -/
  | idle
  /-- Reset is asserted: it is taken, before any command (R102). -/
  | reset
  /-- A command is offered and FAULTED = 1: it is not accepted (R89). -/
  | halted
  /-- An illegal command is accepted, leaving this state (R91). -/
  | illegal (s : State)
  /-- A command is accepted, leaving this state to run it in. -/
  | run (i : Instr) (s : State)
  deriving DecidableEq, Repr

/-- The block accepts the oldest offered command: it leaves the port. -/
def State.accept (rest : List Command) (s : State) : State := { s with commands := rest }

/-- Reset first; then the halt rule before decoding, decoding before the command's own checks (R90). -/
def State.nextEvent (s : State) : PortEvent :=
  if s.resetLine then .reset
  else
    match s.commands with
    | [] => .idle
    | c :: rest =>
      if s.faulted then .halted
      else
        match decode c with
        | .command i => .run i (s.accept rest)
        | .illegal _ => .illegal (s.accept rest)

/-- A host action (R13). Reading STATUS is `State.statusWord`: it changes nothing (R24). -/
inductive HostAction where
  /-- Offer a command behind those already offered (R43). -/
  | offer (c : Command)
  /-- Take back every offer not yet accepted (log entry 5). -/
  | withdraw
  /-- Assert reset (R102). -/
  | assertReset
  /-- Read the oldest response, which leaves the port; with none pending the host waits (R25, R89). -/
  | takeResponse
  deriving DecidableEq, Repr

/-- What a host action does to the ports. -/
def State.hostAct (act : HostAction) (s : State) : State :=
  match act with
  | .offer c => { s with commands := s.commands ++ [c] }
  | .withdraw => { s with commands := [] }
  | .assertReset => { s with resetLine := true }
  | .takeResponse => { s with responses := s.responses.tail }

/-- Place a command where the next step takes it: at the front of the port, with reset not asserted (log entry 8). -/
def State.placeCommand (c : Command) (s : State) : State :=
  { s with commands := c :: s.commands, resetLine := false }

end Sys2Proof.Machine
end

