-- ==== Sys2Proof/Machine/Step.lean ====
section
/-! DEFINITION. One step of the block: each command is one indivisible step (00_scope.md R11). -/

namespace Sys2Proof.Machine

/-- One step: reset, an accepted command, or nothing. -/
def step (s : State) : Host.Outcome State Fault Refusal :=
  match s.nextEvent with
  | .idle => .next s
  | .reset => .next s.takeReset
  | .halted => .fault .halted
  | .illegal s' => .next (s'.raise .illegalCmd)
  | .run i s' => exec i s'

/-- `s` with the command of an opcode-table row offered, so that the next step accepts it (log entry 8). -/
def State.withFetchWord (s : State) (nbits w : Nat) : State := s.placeCommand (Command.ofTableWord nbits w)

end Sys2Proof.Machine
end

