-- ==== Sys2Proof/Machine/HostSide.lean ====
section
/-! DEFINITION. The host-side derivations (42_host_derivations.md): functions a host applies to STEP responses.
The block computes none of them (00_scope.md R4). -/

namespace Sys2Proof.Machine

/-- The pseudo-instructions of 30_encoding.md R55. -/
inductive Derivation where
  /-- `next.long` (R77). -/
  | long
  /-- `next.int` (R78). -/
  | int
  /-- `next.bool` (R79). -/
  | bool
  /-- `next.double` (R80). -/
  | double
  deriving DecidableEq, Repr

/-- The result of a derivation, by its type. -/
inductive HostResult where
  /-- A signed 64-bit integer. -/
  | long (v : Int)
  /-- A signed 32-bit integer. -/
  | int (v : Int)
  /-- A boolean. -/
  | bool (v : Bool)
  /-- A binary64 bit pattern. -/
  | double (bits : Word)
  deriving DecidableEq, Repr

/-- `next.long`, R77: the response read by `sval`. -/
def nextLong (resp : Word) : Int := sval resp

/-- The 32 bits of `next.int`, R78: `(resp >>u 32)[31:0]`. -/
def nextIntBits (resp : Word) : BitVec 32 := (resp >>> 32).extractLsb' 0 32

/-- `next.int`, R78: the upper 32 bits, read signed. -/
def nextInt (resp : Word) : Int := (nextIntBits resp).toInt

/-- `next.bool`, R79: the lowest bit of `next.int` is 1. -/
def nextBool (resp : Word) : Bool := (nextIntBits resp).getLsbD 0

/-- `LONG_MAX` of R80. -/
def longMax : Int := 2 ^ 63 - 1

/-- `next.double`, R80: `abs(nextLong()) / (double) LONG_MAX` under a HOST_DOUBLE_ARITH. -/
def nextDouble (arith : Config.HostDoubleArith) (resp : Word) : Word :=
  arith.div (arith.toDouble (arith.abs (nextLong resp))) (arith.toDouble longMax)

/-- Java's `abs` on a 64-bit integer (R80, general knowledge K2; PRESUMED, log entry 9): -2^63 is its own. -/
def javaAbs (v : Int) : Int := if v = -(2 ^ 63) then v else if v < 0 then -v else v

/-- `n` shifted right by `e` bits, rounded to nearest, ties to even. -/
def roundShift (n e : Nat) : Nat :=
  let q := n / 2 ^ e
  let r := n % 2 ^ e
  if 2 * r > 2 ^ e ∨ (2 * r = 2 ^ e ∧ q % 2 = 1) then q + 1 else q

/-- The binary64 value nearest to a natural number, ties to even: 53 significant bits (R80; PRESUMED, log entry 9). -/
def round53 (n : Nat) : Nat :=
  let e := n.log2 - 52
  roundShift n e * 2 ^ e

/-- The exact value of `(double) v` for a 64-bit integer `v` (R80; PRESUMED, log entry 9). -/
def javaToDouble (v : Int) : Int := if v < 0 then -(round53 v.natAbs : Int) else round53 v.natAbs

/-- The numerator and denominator of `n / d` divided by 2^e. -/
def scaleRatio (n d : Nat) (e : Int) : Nat × Nat := (n * 2 ^ (-e).toNat, d * 2 ^ e.toNat)

/-- The binary64 bit pattern of `n / d`, rounded to nearest, ties to even, for `n` and `d` from 1 to 2^63: every such
quotient is a normal binary64 number, and 0 for `n = 0`. The hidden bit of the 53-bit significand and a carry out of
rounding both go into the exponent field. -/
def binary64Ratio (neg : Bool) (n d : Nat) : Word :=
  if n = 0 then 0#64
  else
    let e0 : Int := (n.log2 : Int) - d.log2 - 53
    let wide := scaleRatio n d e0
    let e : Int := if 2 ^ 53 ≤ wide.1 / wide.2 then e0 + 1 else e0
    let s := scaleRatio n d e
    let q := s.1 / s.2
    let r := s.1 % s.2
    let q' := if 2 * r > s.2 ∨ (2 * r = s.2 ∧ q % 2 = 1) then q + 1 else q
    BitVec.ofNat 64 ((if neg then 2 ^ 63 else 0) + (e + 1074).toNat * 2 ^ 52 + q')

/-- The quotient of two doubles that are integers, the divisor not zero (R80; PRESUMED, log entry 9). -/
def javaDiv (x y : Int) : Word := binary64Ratio (decide (x < 0) != decide (y < 0)) x.natAbs y.natAbs

/-- The reading of HOST_DOUBLE_ARITH that R80 takes as the Java platform's. -/
def javaArith : Config.HostDoubleArith := ⟨javaAbs, javaToDouble, javaDiv⟩

/-- What the host computes from the response of the STEP that a derivation expands to. -/
def derive (arith : Config.HostDoubleArith) (d : Derivation) (resp : Word) : HostResult :=
  match d with
  | .long => .long (nextLong resp)
  | .int => .int (nextInt resp)
  | .bool => .bool (nextBool resp)
  | .double => .double (nextDouble arith resp)

/-- The response that a command added to the port, if it added one. -/
def responseAdded (s t : State) : Option Word := (t.responses.drop s.responses.length).head?

/-- A host derivation: exactly one STEP, and the result from its response; no result where the STEP gives no
response (R77, R84). The block's state after it is the STEP's (R85). DESIGN CHOICE (log entry 13): the spec does not say
when the host takes the response off the port; the derivation reads the one its own STEP added, behind older ones too,
and leaves it pending, to be taken by `HostAction.takeResponse`. DESIGN CHOICE (log entry 14): `s` is the state in which
the block accepts that STEP; waiting for commands offered earlier, or for an asserted reset, comes before it and is no
part of the derivation. -/
def hostNext (arith : Config.HostDoubleArith) (d : Derivation) (s : State) : Option (HostResult × State) :=
  match exec .step s with
  | .next t => (responseAdded s t).map fun r => (derive arith d r, t)
  | .fault _ => none
  | .refused _ => none

/-- Host derivations one after another, with their results in order (R84); no other command or reset comes between them
(DESIGN CHOICE, log entry 14). -/
def hostNexts (arith : Config.HostDoubleArith) : List Derivation → State → Option (List HostResult × State)
  | [], s => some ([], s)
  | d :: ds, s =>
    match hostNext arith d s with
    | none => none
    | some (r, t) => (hostNexts arith ds t).map fun p => (r :: p.1, p.2)

/-- The capability's default `nextLong()`, R82: `(high << 32) | low`, `low` zero-extended. This generator never uses
it. -/
def longFromInts (high low : BitVec 32) : Word := (high.setWidth 64 <<< 32) ||| low.setWidth 64

end Sys2Proof.Machine
end

