-- ==== Sys2Proof/Machine/Operands.lean ====
section
/-! DEFINITION. The operand lanes and which command uses which (30_encoding.md rules R43, R46). -/

namespace Sys2Proof.Machine

/-- The four operand lanes of R43. -/
inductive Lane where
  /-- `OPM`. -/
  | opm
  /-- `OPA`. -/
  | opa
  /-- `OPC`. -/
  | opc
  /-- `OPS`. -/
  | ops
  deriving DecidableEq, Repr

/-- The 64-bit value on a lane, taken unchanged (R47). -/
def laneValue (c : Command) : Lane → Word
  | .opm => c.opm
  | .opa => c.opa
  | .opc => c.opc
  | .ops => c.ops

/-- The table of R46: whether a command uses a lane. -/
def usesLane : Instr → Lane → Bool
  | .nop, _ => false
  | .cfgDefault _, .ops => true
  | .cfgDefault _, _ => false
  | .cfgFull _ _ _ _, _ => true
  | .step, _ => false

end Sys2Proof.Machine
end

