-- ==== Sys2Proof/Machine/Assembler.lean ====
section
/-! DEFINITION. The assembly language (30_encoding.md rules R53 to R56), read from and listed as characters. -/

namespace Sys2Proof.Machine

/-- A line of assembly, its operands as written (R53, R55). -/
inductive AsmLine where
  /-- `nop`. -/
  | nop
  /-- `cfg.default <seed>`. -/
  | cfgDefault (seed : Nat)
  /-- `cfg.full <m>, <a>, <c>, <seed>`. -/
  | cfgFull (m a c seed : Nat)
  /-- `step`. -/
  | step
  /-- A pseudo-instruction `next.*` (R55). -/
  | next (d : Derivation)
  deriving DecidableEq, Repr

/-- R54: an operand has a value in 0 .. 2^64 - 1. -/
def operandOk (v : Nat) : Bool := decide (v < 2 ^ 64)

/-- R54: every operand of the line is in range. -/
def AsmLine.wf : AsmLine → Bool
  | .nop => true
  | .cfgDefault seed => operandOk seed
  | .cfgFull m a c seed => operandOk m && operandOk a && operandOk c && operandOk seed
  | .step => true
  | .next _ => true

/-- The command of a line: a pseudo-instruction expands to exactly one `step` (R55). -/
def AsmLine.instr : AsmLine → Instr
  | .nop => .nop
  | .cfgDefault seed => .cfgDefault (BitVec.ofNat 64 seed)
  | .cfgFull m a c seed =>
    .cfgFull (BitVec.ofNat 64 m) (BitVec.ofNat 64 a) (BitVec.ofNat 64 c) (BitVec.ofNat 64 seed)
  | .step => .step
  | .next _ => .step

/-- The command tuple of a line, zero in every lane the command ignores (R53), or none where the assembler rejects an
operand (R54). -/
def AsmLine.assemble (l : AsmLine) : Option Command :=
  if l.wf then some (encode l.instr) else none

/-! ### Reading a line (R53, R54) -/

/-- A blank between tokens (DESIGN CHOICE, log entry 10). -/
def isBlank (ch : Char) : Bool := ch == ' ' || ch == '\t'

/-- The value of a digit of the base, decimal or hexadecimal, either letter case (log entry 10). -/
def digitVal (base : Nat) (ch : Char) : Option Nat :=
  let n := ch.toNat
  let v :=
    if 48 ≤ n ∧ n ≤ 57 then n - 48
    else if 65 ≤ n ∧ n ≤ 70 then n - 55
    else if 97 ≤ n ∧ n ≤ 102 then n - 87
    else 16
  if v < base then some v else none

/-- Digits with single `_` separators between them (R54). DESIGN CHOICE (log entry 10): where `_` may stand, and that it
may in a decimal literal too, which R54 leaves ambiguous and 00_scope.md R12 says of hexadecimal ones only. `afterDigit` says that the character before was a digit. -/
def readDigits (base : Nat) : List Char → Nat → Bool → Option Nat
  | [], acc, afterDigit => if afterDigit then some acc else none
  | ch :: rest, acc, afterDigit =>
    if ch = '_' then if afterDigit then readDigits base rest acc false else none
    else
      match digitVal base ch with
      | some v => readDigits base rest (acc * base + v) true
      | none => none

/-- An operand: an unsigned literal, decimal or `0x` hexadecimal (R54). -/
def readLiteral : List Char → Option Nat
  | '0' :: 'x' :: rest => readDigits 16 rest 0 false
  | chars => readDigits 10 chars 0 false

/-- Drop blanks at both ends. -/
def trimBlanks (chars : List Char) : List Char :=
  ((chars.dropWhile isBlank).reverse.dropWhile isBlank).reverse

/-- The parts between commas; never empty. -/
def splitCommas : List Char → List (List Char)
  | [] => [[]]
  | ch :: rest =>
    match splitCommas rest with
    | [] => [[ch]]
    | part :: parts => if ch = ',' then [] :: part :: parts else (ch :: part) :: parts

/-- All literals of a list, or none. -/
def readLiterals : List (List Char) → Option (List Nat)
  | [] => some []
  | part :: parts =>
    match readLiteral (trimBlanks part), readLiterals parts with
    | some v, some vs => some (v :: vs)
    | _, _ => none

/-- The operands after a mnemonic, separated by commas (R53). -/
def readOperands (chars : List Char) : Option (List Nat) :=
  if trimBlanks chars = [] then some [] else readLiterals (splitCommas chars)

/-- What a line of text is. -/
inductive AsmText where
  /-- Blank, or a comment only. -/
  | empty
  /-- A line of R53 or R55. -/
  | line (l : AsmLine)
  /-- Rejected (R54). -/
  | error
  deriving DecidableEq, Repr

/-- A mnemonic of R53 or R55 with its operands; anything else is rejected (R54). -/
def readMnemonic (name : List Char) (operands : List Nat) : AsmText :=
  if name = ['n', 'o', 'p'] ∧ operands = [] then .line .nop
  else if name = ['s', 't', 'e', 'p'] ∧ operands = [] then .line .step
  else if name = ['n', 'e', 'x', 't', '.', 'l', 'o', 'n', 'g'] ∧ operands = [] then .line (.next .long)
  else if name = ['n', 'e', 'x', 't', '.', 'i', 'n', 't'] ∧ operands = [] then .line (.next .int)
  else if name = ['n', 'e', 'x', 't', '.', 'b', 'o', 'o', 'l'] ∧ operands = [] then .line (.next .bool)
  else if name = ['n', 'e', 'x', 't', '.', 'd', 'o', 'u', 'b', 'l', 'e'] ∧ operands = [] then .line (.next .double)
  else if name = ['c', 'f', 'g', '.', 'd', 'e', 'f', 'a', 'u', 'l', 't'] then
    match operands with
    | [seed] => .line (.cfgDefault seed)
    | _ => .error
  else if name = ['c', 'f', 'g', '.', 'f', 'u', 'l', 'l'] then
    match operands with
    | [m, a, c, seed] => .line (.cfgFull m a c seed)
    | _ => .error
  else .error

/-- One line of assembly text; `;` starts a comment to the end of the line (R53). -/
def readLine (chars : List Char) : AsmText :=
  let body := trimBlanks (chars.takeWhile fun ch => ch != ';')
  if body = [] then .empty
  else
    match readOperands (body.dropWhile fun ch => !isBlank ch) with
    | none => .error
    | some operands =>
      match readMnemonic (body.takeWhile fun ch => !isBlank ch) operands with
      | .line l => if l.wf then .line l else .error
      | other => other

/-! ### The listing form (R56) -/

/-- A hexadecimal digit, letters in upper case (log entry 10). -/
def hexDigit (n : Nat) : Char := Char.ofNat (if n < 10 then 48 + n else 55 + n)

/-- `k` hexadecimal digits of `v`, most significant first. -/
def hexDigits : Nat → Nat → List Char
  | 0, _ => []
  | k + 1, v => hexDigits k (v / 16) ++ [hexDigit (v % 16)]

/-- A lane in a listing: 16 digits, or `-` where the command ignores it. -/
def listLane (i : Instr) (l : Lane) : List Char :=
  if usesLane i l then hexDigits 16 (laneValue (encode i) l).toNat else ['-']

/-- The listing `CW OPM OPA OPC OPS` of a command (R56). -/
def listing (i : Instr) : List Char :=
  hexDigits 8 (encode i).cw.toNat ++ [' '] ++ listLane i .opm ++ [' '] ++ listLane i .opa ++ [' '] ++
    listLane i .opc ++ [' '] ++ listLane i .ops

end Sys2Proof.Machine
end

