-- ==== Sys2Proof/Machine/HostBus.lean ====
section
/-! DEFINITION. Words on a host's byte-addressed bus, under the parameters HOST_BYTE_ORDER and HOST_PORT_MAP
(20_memory.md R32, R35). The block takes no part in it. -/

namespace Sys2Proof.Machine

/-- The low `n` bytes of a number, least significant first. -/
def bytesOf : Nat → Nat → List Byte
  | 0, _ => []
  | n + 1, v => BitVec.ofNat 8 v :: bytesOf n (v / 256)

/-- The number whose bytes are given, least significant first. -/
def ofBytes : List Byte → Nat
  | [] => 0
  | b :: bs => b.toNat + 256 * ofBytes bs

/-- The bytes of an `n`-byte value in address order, under the host's byte order (R32; DESIGN CHOICE, log entry 11: the
spec gives no splitting of a word into bytes, the block makes none). -/
def busBytes (order : Config.HostByteOrder) (n v : Nat) : List Byte :=
  match order with
  | .little => bytesOf n v
  | .big => (bytesOf n v).reverse

/-- The value of bytes in address order (R32; DESIGN CHOICE, log entry 11). -/
def busValue (order : Config.HostByteOrder) (bs : List Byte) : Nat :=
  match order with
  | .little => ofBytes bs
  | .big => ofBytes bs.reverse

/-- The width in bytes of what moves at a port: `CW` and STATUS 4, lanes and response 8 (R34). DESIGN CHOICE (log
entry 11): the spec gives the reset input no width on a host's bus; here it is 0, so no bytes move it, and the host
asserts reset by `HostAction.assertReset`. -/
def portBytes : Config.HostPort → Nat
  | .cw => 4
  | .opm => 8
  | .opa => 8
  | .opc => 8
  | .ops => 8
  | .response => 8
  | .status => 4
  | .reset => 0

/-- The value that each port of the command carries (R43); the other ports carry no part of a command, written 0. -/
def portValue (c : Command) : Config.HostPort → Nat
  | .cw => c.cw.toNat
  | .opm => c.opm.toNat
  | .opa => c.opa.toNat
  | .opc => c.opc.toNat
  | .ops => c.ops.toNat
  | .response => 0
  | .status => 0
  | .reset => 0

/-- The addressed bytes a host writes to move a command's value to a port of the command: at consecutive addresses from
the port's own (DESIGN CHOICE, log entry 11). -/
def busWrites (p : Config.HostParams) (c : Command) (port : Config.HostPort) : List (Nat × Byte) :=
  ((busBytes p.byteOrder (portBytes port) (portValue c port)).zipIdx).map fun b => (p.portMap port + b.2, b.1)

end Sys2Proof.Machine
end

