-- ==== Sys2Proof/Safety.lean ====
section
/-! DEFINITION. What the statements speak of: runs of one command, the sequence of a configuration, the invariant of
every reachable state, and what a host can observe. -/

namespace Sys2Proof.Machine

/-- `k` times the same command, stopping at the first outcome with no next state. -/
def execTimes (i : Instr) : Nat → State → Host.Outcome State Fault Refusal
  | 0, s => .next s
  | k + 1, s =>
    match exec i s with
    | .next t => execTimes i k t
    | .fault r => .fault r
    | .refused r => .refused r

/-- Commands one after another, stopping at the first outcome with no next state (20_memory.md R37). -/
def execList : List Instr → State → Host.Outcome State Fault Refusal
  | [], s => .next s
  | i :: is, s =>
    match exec i s with
    | .next t => execList is t
    | .fault r => .fault r
    | .refused r => .refused r

/-- The sequence X_k of 41_state_update.md R67. -/
def lcgSeq (m a c seed : Word) : Nat → Word
  | 0 => seed
  | k + 1 => lcgNext m a c (lcgSeq m a c seed k)

/-- A block that may run a command: not halted (60_exceptions.md R89). -/
abbrev State.Running (s : State) : Prop := s.faulted = false

/-- A configuration whose check, if any, passes: CFG_FULL writes it (40_configuration.md R59). -/
abbrev State.Accepts (s : State) (m a c : Word) : Prop := s.validateParams = false ∨ valid m a c = true

/-- FAULTED and FCODE agree, and FCODE is a code of 60_exceptions.md R86. -/
abbrev State.FcodeOk (s : State) : Prop :=
  (s.faulted = false ∧ s.fcode = 0#4) ∨
  (s.faulted = true ∧ (s.fcode = 1#4 ∨ s.fcode = 2#4 ∨ s.fcode = 3#4 ∨ s.fcode = 4#4))

/-- The cause of the recorded fault still stands, since a fault changes no configuration (60_exceptions.md R92 to
R94). -/
abbrev State.CauseOk (s : State) : Prop :=
  (s.fcode = 2#4 → s.cfgValid = false) ∧
  (s.fcode = 3#4 → s.cfgValid = true ∧ s.mod = 0#64) ∧
  (s.fcode = 4#4 → s.validateParams = true)

/-- Under VALIDATE_PARAMS a configured block holds parameters that satisfy `valid` (40_configuration.md R58 to
R60). -/
abbrev State.ParamsOk (s : State) : Prop :=
  s.validateParams = true → s.cfgValid = true → valid s.mod s.mul s.inc = true

/-- A block that was not configured since reset has no response pending (10_state.md R25, R30). -/
abbrev State.ResponsesOk (s : State) : Prop := s.cfgValid = false → s.responses = []

/-- The invariant of every reachable state. -/
abbrev State.Inv (s : State) : Prop := s.FcodeOk ∧ s.CauseOk ∧ s.ParamsOk ∧ s.ResponsesOk

/-- The states reached from reset, under either VALIDATE_PARAMS, by steps of the block and any actions of the host
(10_state.md R13). -/
inductive Reachable : State → Prop where
  /-- The state after reset. -/
  | init (validate : Bool) : Reachable (State.resetWith validate)
  /-- A step of the block. -/
  | block {s t : State} : Reachable s → step s = .next t → Reachable t
  /-- An action of the host. -/
  | host {s : State} (act : HostAction) : Reachable s → Reachable (s.hostAct act)

/-- What the host can see of the block: STATUS and the response port (10_state.md R24). -/
def State.observed (s : State) : BitVec 32 × List Word := (s.statusWord, s.responses)

/-- Equal but for the four data registers (10_state.md R15 to R18). -/
def EqualButData (s t : State) : Prop :=
  t = { s with mod := t.mod, mul := t.mul, inc := t.inc, state := t.state }

/-- Equal, or both not configured and equal but for the data registers (10_state.md R20). -/
def SameUnconfigured (s t : State) : Prop := s = t ∨ (s.cfgValid = false ∧ EqualButData s t)

/-- Two outcomes of the same kind: next states that are related, or the same stop. -/
def OutcomesRelated (rel : State → State → Prop) :
    Host.Outcome State Fault Refusal → Host.Outcome State Fault Refusal → Prop
  | .next s, .next t => rel s t
  | .fault r, .fault r' => r = r'
  | .refused r, .refused r' => r = r'
  | .next _, .fault _ => False
  | .next _, .refused _ => False
  | .fault _, .next _ => False
  | .fault _, .refused _ => False
  | .refused _, .next _ => False
  | .refused _, .fault _ => False

end Sys2Proof.Machine
end

