-- ==== Sys2Proof/WellFormed.lean ====
section
/-! DEFINITION. When a command tuple is one of the four commands (30_encoding.md rules R45, R48, R49).
A term of `Instr` needs no check: every 64-bit value is a legal lane value (R47). -/

namespace Sys2Proof

/-- R49: the reserved field is zero. -/
def Command.rzOk (c : Command) : Bool := c.rz == 0#28

/-- R48: the opcode is one of 0x0 to 0x3. -/
def Command.opcodeOk (c : Command) : Bool := decide (c.opcode.toNat < 4)

/-- The command word selects one of the four commands of R45. -/
def Command.wf (c : Command) : Bool := c.rzOk && c.opcodeOk

end Sys2Proof
end

