-- ==== Sys2Proof/Certificates/Slice0/Obligations.lean ====
section
/-! DEFINITION. The statements for the provers. Each docstring names the rules of spec/ it formalises. -/

open Sys2Proof Sys2Proof.Machine

/-! ### Encoding -/

/-- 30_encoding.md R45, R50: a command word selects a command exactly when it equals that command's value, with the
lane values taken unchanged, and every other word is illegal. -/
def Obligations.CommandWordSelectsCommand : Prop :=
  ∀ c : Command,
    (decode c = .command .nop ↔ c.cw = 0x00000000#32) ∧
    (∀ seed, decode c = .command (.cfgDefault seed) ↔ c.cw = 0x00000001#32 ∧ seed = c.ops) ∧
    (∀ m a inc seed, decode c = .command (.cfgFull m a inc seed) ↔
      c.cw = 0x00000002#32 ∧ m = c.opm ∧ a = c.opa ∧ inc = c.opc ∧ seed = c.ops) ∧
    (decode c = .command .step ↔ c.cw = 0x00000003#32) ∧
    ((∃ why, decode c = .illegal why) ↔
      c.cw ≠ 0x00000000#32 ∧ c.cw ≠ 0x00000001#32 ∧ c.cw ≠ 0x00000002#32 ∧ c.cw ≠ 0x00000003#32)

/-- 30_encoding.md sections 1 to 4: decoding an encoded command gives it back; a decoded command's encoding agrees with
the tuple it was decoded from in the command word and in every lane the command uses. The third clause is about the
model's own layout of a tuple as one number (log entry 8, a DESIGN CHOICE on which those sections are silent): decoding
the laid-out encoding gives the command back. -/
def Obligations.DecodeEncodeAgree : Prop :=
  (∀ i : Instr, decode (encode i) = .command i) ∧
  (∀ (c : Command) (i : Instr), decode c = .command i →
    c.cw = (encode i).cw ∧ ∀ l : Lane, usesLane i l = true → laneValue c l = laneValue (encode i) l) ∧
  (∀ i : Instr, decodeTableWord 288 (encode i).toNat = some i)

/-- 30_encoding.md section 2: words written out from the opcode map. -/
def Obligations.DecodedWordsOfTheMap : Prop :=
  decode ⟨0b00000000000000000000000000000000#32, 1, 2, 3, 4⟩ = .command .nop ∧
  decode ⟨0b00000000000000000000000000000001#32, 1, 2, 3, 4⟩ = .command (.cfgDefault 4) ∧
  decode ⟨0b00000000000000000000000000000010#32, 1, 2, 3, 4⟩ = .command (.cfgFull 1 2 3 4) ∧
  decode ⟨0b00000000000000000000000000000011#32, 1, 2, 3, 4⟩ = .command .step

/-- 30_encoding.md R48, R49: a reserved opcode, or a nonzero RZ whatever the opcode, raises ILLEGAL_CMD and has no
other effect; 0x0000_0013 is not STEP. -/
def Obligations.ReservedEncodingsRaiseIllegal : Prop :=
  (∀ (s : State) (c : Command) (rest : List Command),
    s.resetLine = false → s.Running → s.commands = c :: rest →
    (4 ≤ c.opcode.toNat ∨ c.rz ≠ 0#28) →
    step s = .next { s with commands := rest, faulted := true, fcode := 0x1#4 }) ∧
  (∀ c : Command, c.cw = 0x00000013#32 → decode c ≠ .command .step)

/-- 30_encoding.md R46: two commands with the same word that agree on the lanes the table gives the command (OPS for
CFG_DEFAULT, all four for CFG_FULL, none otherwise) have the same effect in every state. -/
def Obligations.IgnoredLanesHaveNoEffect : Prop :=
  ∀ (s : State) (c c' : Command) (rest : List Command),
    s.resetLine = false → c.cw = c'.cw →
    (c.cw = 0x00000001#32 → c.ops = c'.ops) →
    (c.cw = 0x00000002#32 → c.opm = c'.opm ∧ c.opa = c'.opa ∧ c.opc = c'.opc ∧ c.ops = c'.ops) →
    step { s with commands := c :: rest } = step { s with commands := c' :: rest }

/-! ### The machine -/

/-- A step runs the decoded command in the state in which the command has left the port. -/
def Obligations.StepRunsDecodedCommand : Prop :=
  ∀ (s : State) (c : Command) (rest : List Command) (i : Instr),
    s.resetLine = false → s.commands = c :: rest → decode c = .command i →
    step s = exec i { s with commands := rest }

/-- 60_exceptions.md R90: the order of the checks of an offered command: halted, ILLEGAL_CMD, then NOT_CONFIGURED and
MOD_ZERO for STEP and INVALID_PARAM for CFG_*; the first that holds is the one raised. -/
def Obligations.FaultPriorityOrder : Prop :=
  ∀ (s : State) (c : Command) (rest : List Command), s.resetLine = false → s.commands = c :: rest →
    if s.faulted then ∀ t, step s ≠ .next t
    else if 4 ≤ c.opcode.toNat ∨ c.rz ≠ 0#28 then
      step s = .next { s with commands := rest, faulted := true, fcode := 0x1#4 }
    else if c.cw = 0x00000003#32 then
      if s.cfgValid = false then step s = .next { s with commands := rest, faulted := true, fcode := 0x2#4 }
      else if s.mod = 0#64 then step s = .next { s with commands := rest, faulted := true, fcode := 0x3#4 }
      else ∃ t, step s = .next t ∧ t.faulted = false
    else if c.cw = 0x00000002#32 ∧ s.validateParams = true ∧ valid c.opm c.opa c.opc = false then
      step s = .next { s with commands := rest, faulted := true, fcode := 0x4#4 }
    else ∃ t, step s = .next t ∧ t.faulted = false

/-- 60_exceptions.md R88: a step that raises a fault accepts one command, writes FAULTED and FCODE, and leaves every
register, CFG_VALID, the responses and the rest of the state as they were. -/
def Obligations.FaultIsPrecise : Prop :=
  ∀ s t : State, s.Running → step s = .next t → t.faulted = true →
    ∃ (c : Command) (rest : List Command) (code : FaultCode),
      s.commands = c :: rest ∧ t = { s with commands := rest, faulted := true, fcode := code.code }

/-- 60_exceptions.md R89: a halted block has no step for any command, offered or run directly; whatever steps it has
without reset leave STATUS, the registers and the responses alone; only reset clears FAULTED. -/
def Obligations.HaltedBlockExecutesNothing : Prop :=
  (∀ s t : State, s.faulted = true → s.resetLine = false → s.commands ≠ [] → step s ≠ .next t) ∧
  (∀ (i : Instr) (s t : State), s.faulted = true → exec i s ≠ .next t) ∧
  (∀ s t : State, s.faulted = true → s.resetLine = false → step s = .next t →
    t.statusWord = s.statusWord ∧ t.responses = s.responses ∧ t.mod = s.mod ∧ t.mul = s.mul ∧ t.inc = s.inc ∧
    t.state = s.state) ∧
  (∀ s t : State, s.faulted = true → step s = .next t → t.faulted = false → s.resetLine = true) ∧
  (∀ (s : State) (act : HostAction), (s.hostAct act).statusWord = s.statusWord)

/-- 60_exceptions.md R97: after a fault, no step raises another, and reset alone leads out and discards the
configuration. -/
def Obligations.ResetIsTheOnlyWayOut : Prop :=
  ∀ s t : State, s.faulted = true → step s = .next t →
    (s.resetLine = false → t.faulted = true ∧ t.fcode = s.fcode) ∧
    (s.resetLine = true → t.faulted = false ∧ t.cfgValid = false)

/-- 60_exceptions.md R86: which code a fault writes, which command raises it and when; 0x5 to 0xF are never written. -/
def Obligations.FaultCodesAndCauses : Prop :=
  ∀ s t : State, s.Running → step s = .next t → t.faulted = true →
    ∃ (c : Command) (rest : List Command), s.commands = c :: rest ∧
      ((t.fcode = 0x1#4 ∧ (4 ≤ c.opcode.toNat ∨ c.rz ≠ 0#28)) ∨
       (t.fcode = 0x2#4 ∧ c.cw = 0x00000003#32 ∧ s.cfgValid = false) ∨
       (t.fcode = 0x3#4 ∧ c.cw = 0x00000003#32 ∧ s.cfgValid = true ∧ s.mod = 0#64) ∨
       (t.fcode = 0x4#4 ∧ c.cw = 0x00000002#32 ∧ s.validateParams = true ∧ valid c.opm c.opa c.opc = false))

/-- 70_reset_and_hazards.md section 1: reset, in any state, the halted ones among them, gives the reset value of every
flag, the empty response port and the STATUS of the built-in VALIDATE_PARAMS. (The spec gives the data registers no
value; the model's 0 for them, log entry 1, is not stated.) -/
def Obligations.ResetFromAnyState : Prop :=
  ∀ s : State, s.resetLine = true → ∃ t, step s = .next t ∧
    t.cfgValid = false ∧ t.faulted = false ∧ t.fcode = 0x0#4 ∧ t.responses = [] ∧
    t.validateParams = s.validateParams ∧
    t.statusWord = if s.validateParams then 0x00000100#32 else 0x00000000#32

/-- 10_state.md section 6: the reset state, for either VALIDATE_PARAMS, and State.reset the one of the default. -/
def Obligations.ResetStateValues : Prop :=
  (∀ v : Bool, (State.resetWith v).cfgValid = false ∧ (State.resetWith v).faulted = false ∧
    (State.resetWith v).fcode = 0x0#4 ∧ (State.resetWith v).responses = [] ∧
    (State.resetWith v).statusWord = if v then 0x00000100#32 else 0x00000000#32) ∧
  State.reset = State.resetWith false

/-- 70_reset_and_hazards.md R103: of the first command after reset: NOP, CFG_DEFAULT and a CFG_FULL that INVALID_PARAM
does not stop complete; STEP faults with NOT_CONFIGURED and an illegal word with ILLEGAL_CMD. -/
def Obligations.FirstCommandAfterReset : Prop :=
  ∀ (v : Bool) (c : Command) (rest : List Command), ∃ t,
    step { State.resetWith v with commands := c :: rest } = .next t ∧
    (t.faulted = false ↔ c.cw = 0x00000000#32 ∨ c.cw = 0x00000001#32 ∨
      (c.cw = 0x00000002#32 ∧ (v = false ∨ valid c.opm c.opa c.opc = true))) ∧
    (c.cw = 0x00000003#32 → t.faulted = true ∧ t.fcode = 0x2#4) ∧
    ((∃ why, decode c = .illegal why) → t.faulted = true ∧ t.fcode = 0x1#4)

/-- 70_reset_and_hazards.md R113: an offered command is accepted and completes in its step, unless the block is
halted. -/
def Obligations.EveryCommandCompletes : Prop :=
  ∀ (s : State) (c : Command) (rest : List Command),
    s.resetLine = false → s.Running → s.commands = c :: rest →
    ∃ t, step s = .next t ∧ t.commands = rest

/-! ### The status word and the flags -/

/-- 10_state.md R23: the layout of STATUS; the host writes no field of it. -/
def Obligations.StatusWordLayout : Prop :=
  ∀ s : State,
    s.statusWord.getLsbD 0 = s.cfgValid ∧
    s.statusWord.getLsbD 1 = s.faulted ∧
    s.statusWord.extractLsb' 2 2 = 0#2 ∧
    s.statusWord.extractLsb' 4 4 = s.fcode ∧
    s.statusWord.getLsbD 8 = s.validateParams ∧
    s.statusWord.extractLsb' 9 23 = 0#23 ∧
    ∀ act : HostAction, (s.hostAct act).statusWord = s.statusWord

/-- 10_state.md R20: reset clears CFG_VALID, a CFG_* that completes sets it, nothing else writes it; while it is 0 a
STEP faults with NOT_CONFIGURED whatever the data registers hold. -/
def Obligations.CfgValidWriters : Prop :=
  (∀ s t : State, step s = .next t → t.cfgValid ≠ s.cfgValid →
    (s.resetLine = true ∧ t.cfgValid = false) ∨
    (t.cfgValid = true ∧ t.faulted = false ∧
      ∃ (c : Command) (rest : List Command), s.commands = c :: rest ∧
        (c.cw = 0x00000001#32 ∨ c.cw = 0x00000002#32))) ∧
  (∀ s t : State, s.resetLine = true → step s = .next t → t.cfgValid = false) ∧
  (∀ (s t : State) (seed : Word), exec (.cfgDefault seed) s = .next t → t.faulted = false → t.cfgValid = true) ∧
  (∀ (s t : State) (m a c seed : Word),
    exec (.cfgFull m a c seed) s = .next t → t.faulted = false → t.cfgValid = true) ∧
  (∀ (s : State) (act : HostAction), (s.hostAct act).cfgValid = s.cfgValid) ∧
  (∀ (s : State) (m a c x : Word), s.Running → s.cfgValid = false →
    exec .step { s with mod := m, mul := a, inc := c, state := x } =
      .next { s with mod := m, mul := a, inc := c, state := x, faulted := true, fcode := 0x2#4 })

/-- 10_state.md R22: reset writes 0 to FCODE, a fault its code, and nothing else writes it, so that it keeps the code of
the first fault since reset. -/
def Obligations.FcodeKeepsFirstFault : Prop :=
  (∀ s t : State, s.resetLine = true → step s = .next t → t.fcode = 0x0#4) ∧
  (∀ s t : State, s.resetLine = false → step s = .next t → s.faulted = true → t.fcode = s.fcode) ∧
  (∀ s t : State, s.resetLine = false → step s = .next t → s.faulted = false →
    (t.faulted = false ∧ t.fcode = s.fcode) ∨
    (t.faulted = true ∧ ∃ code : FaultCode, t.fcode = code.code)) ∧
  (∀ (s : State) (act : HostAction), (s.hostAct act).fcode = s.fcode)

/-! ### NOP and the configuration commands -/

/-- 40_configuration.md R57: NOP, whatever its lanes carry, changes nothing and responds nothing, before a configuration
too; from reset it leaves STATUS = 0. -/
def Obligations.NopDoesNothing : Prop :=
  (∀ c : Command, c.cw = 0x00000000#32 → decode c = .command .nop) ∧
  (∀ s : State, s.Running → exec .nop s = .next s) ∧
  (∀ c : Command, c.cw = 0x00000000#32 →
    ∃ t, step { State.reset with commands := [c] } = .next t ∧ t.statusWord = 0x00000000#32 ∧ t.cfgValid = false)

/-- 40_configuration.md R58: CFG_DEFAULT writes the default constants, the seed and CFG_VALID, whatever VALIDATE_PARAMS
is and whatever the seed is; its check never fails. -/
def Obligations.CfgDefaultWritesDefaults : Prop :=
  (∀ c : Command, c.cw = 0x00000001#32 → decode c = .command (.cfgDefault c.ops)) ∧
  (∀ (s : State) (seed : Word), s.Running → exec (.cfgDefault seed) s = .next { s with
    mod := 0xFFFFFFFFFFFFFFFF#64, mul := 0x5851F42D4C957F2D#64, inc := 0x14057B7EF767814F#64,
    state := seed, cfgValid := true }) ∧
  valid 0xFFFFFFFFFFFFFFFF#64 0x5851F42D4C957F2D#64 0x14057B7EF767814F#64 = true

/-- 40_configuration.md R59 and 60_exceptions.md R94: CFG_FULL writes its four lanes and CFG_VALID, unless
VALIDATE_PARAMS is true and the parameters are not valid: then it raises INVALID_PARAM and writes no register; with
VALIDATE_PARAMS true, `cfg.full 9, 9, 0, 1` from reset leaves CFG_VALID = 0 and STATUS = 0x0000_0142. -/
def Obligations.CfgFullWritesOrRefuses : Prop :=
  (∀ c : Command, c.cw = 0x00000002#32 → decode c = .command (.cfgFull c.opm c.opa c.opc c.ops)) ∧
  (∀ (s : State) (m a c seed : Word), s.Running → s.Accepts m a c →
    exec (.cfgFull m a c seed) s =
      .next { s with mod := m, mul := a, inc := c, state := seed, cfgValid := true }) ∧
  (∀ (s : State) (m a c seed : Word), s.Running → s.validateParams = true → valid m a c = false →
    exec (.cfgFull m a c seed) s = .next { s with faulted := true, fcode := 0x4#4 }) ∧
  (∃ t, exec (.cfgFull 9#64 9#64 0#64 1#64) (State.resetWith true) = .next t ∧ t.cfgValid = false ∧
    t.statusWord = 0x00000142#32) ∧
  (∀ (s t : State) (seed : Word), s.Running → exec (.cfgDefault seed) s = .next t → t.faulted = false)

/-- 40_configuration.md R60: the validation predicate, unsigned: 0 < a < m and 0 ≤ c < m with m > 0; it decides nothing
while VALIDATE_PARAMS is false, and the seed takes no part in it. -/
def Obligations.ValidationPredicate : Prop :=
  (∀ m a c : Word, valid m a c = true ↔
    uval m ≠ 0 ∧ uval a ≠ 0 ∧ uval a < uval m ∧ uval c < uval m) ∧
  (∀ (s t : State) (m a c seed : Word), s.Running → s.validateParams = false →
    exec (.cfgFull m a c seed) s = .next t → t.faulted = false) ∧
  (∀ (s t : State) (m a c seed : Word), s.Running → s.validateParams = true →
    exec (.cfgFull m a c seed) s = .next t →
    (t.faulted = false ↔ uval m ≠ 0 ∧ uval a ≠ 0 ∧ uval a < uval m ∧ uval c < uval m))

/-- 40_configuration.md R61: a CFG_* at any time the block is not faulted replaces all four registers at once, whatever
they held, or, where it raises INVALID_PARAM, writes none of them. -/
def Obligations.ConfigurationReplacesAllOrNone : Prop :=
  (∀ (s : State) (seed : Word), s.Running → ∃ t, exec (.cfgDefault seed) s = .next t ∧ t.faulted = false ∧
    t.mod = Config.defaultM ∧ t.mul = Config.defaultA ∧ t.inc = Config.defaultC ∧ t.state = seed) ∧
  (∀ (s : State) (m a c seed : Word), s.Running → ∃ t, exec (.cfgFull m a c seed) s = .next t ∧
    ((t.faulted = false ∧ t.mod = m ∧ t.mul = a ∧ t.inc = c ∧ t.state = seed) ∨
     (t.faulted = true ∧ t.fcode = 0x4#4 ∧ t.mod = s.mod ∧ t.mul = s.mul ∧ t.inc = s.inc ∧ t.state = s.state)))

/-- 40_configuration.md R62: the seed is never checked, whatever VALIDATE_PARAMS is: another seed changes neither
whether CFG_FULL completes nor what else it writes, and CFG_DEFAULT takes every seed; the first STEP returns the seed
unchanged, and the value after it is below MOD. -/
def Obligations.SeedIsNeverChecked : Prop :=
  (∀ (s t : State) (m a c seed seed' : Word), s.Running → exec (.cfgFull m a c seed) s = .next t →
    exec (.cfgFull m a c seed') s = .next (if t.faulted then t else { t with state := seed' })) ∧
  (∀ (s t : State) (seed seed' : Word), s.Running → exec (.cfgDefault seed) s = .next t →
    exec (.cfgDefault seed') s = .next { t with state := seed' }) ∧
  (∀ (s t : State) (m a c seed : Word), s.Running → m ≠ 0#64 → exec (.cfgFull m a c seed) s = .next t →
    t.faulted = false →
    ∃ u, exec .step t = .next u ∧ u.responses = s.responses ++ [seed] ∧ uval u.state < uval m) ∧
  (∀ (s t : State) (seed : Word), s.Running → exec (.cfgDefault seed) s = .next t →
    ∃ u, exec .step t = .next u ∧ u.responses = s.responses ++ [seed] ∧ uval u.state < uval Config.defaultM)

/-! ### STEP -/

/-- 41_state_update.md R63, R70: STEP of a configured block with MOD not 0, whatever the other parameters are, responds
the old STATE and writes the next one, and changes nothing else; otherwise it raises NOT_CONFIGURED or MOD_ZERO, in that
order. -/
def Obligations.StepAdvancesState : Prop :=
  (∀ c : Command, c.cw = 0x00000003#32 → decode c = .command .step) ∧
  (∀ s : State, s.Running → s.cfgValid = true → s.mod ≠ 0#64 →
    exec .step s = .next { s with
      state := BitVec.ofNat 64 (((uval s.mul * uval s.state % 2 ^ 64 + uval s.inc) % 2 ^ 64) % uval s.mod)
      responses := s.responses ++ [s.state] }) ∧
  (∀ s : State, s.Running → s.cfgValid = false →
    exec .step s = .next { s with faulted := true, fcode := 0x2#4 }) ∧
  (∀ s : State, s.Running → s.cfgValid = true → s.mod = 0#64 →
    exec .step s = .next { s with faulted := true, fcode := 0x3#4 })

/-- 41_state_update.md R64, R65, R66: the three stages of a STEP, MUL and ADD wrapping and the same for signed operands,
RED the unsigned remainder. -/
def Obligations.StagesOfTheStateUpdate : Prop :=
  (∀ a x : Word, uval (mulStage a x) = uval a * uval x % 2 ^ 64 ∧
    mulStage a x = BitVec.ofInt 64 (sval a * sval x)) ∧
  (∀ p c : Word, uval (addStage p c) = (uval p + uval c) % 2 ^ 64 ∧
    addStage p c = BitVec.ofInt 64 (sval p + sval c)) ∧
  (∀ q m : Word, m ≠ 0#64 → uval (redStage q m) = uval q % uval m ∧ uval (redStage q m) < uval m) ∧
  (∀ s t : State, exec .step s = .next t → t.faulted = false →
    t.state = redStage (addStage (mulStage s.mul s.state) s.inc) s.mod)

/-- 41_state_update.md R68, 60_exceptions.md R92: STEP before the first configuration raises NOT_CONFIGURED, reading
none of the data registers; from reset `step` leaves STATUS = 0x0000_0022 and no response. -/
def Obligations.NotConfiguredFault : Prop :=
  (∀ (s : State) (m a c x : Word), s.Running → s.cfgValid = false →
    exec .step s = .next { s with faulted := true, fcode := 0x2#4 } ∧
    exec .step { s with mod := m, mul := a, inc := c, state := x } =
      .next { s with mod := m, mul := a, inc := c, state := x, faulted := true, fcode := 0x2#4 }) ∧
  (∃ t, exec .step State.reset = .next t ∧ t.statusWord = 0x00000022#32 ∧ t.responses = [])

/-- 41_state_update.md R69, 60_exceptions.md R93: STEP with MOD = 0 raises MOD_ZERO, STATE unchanged and no response;
a configured block comes to MOD = 0 only by CFG_FULL with OPM = 0 and VALIDATE_PARAMS false; after
`cfg.full 0, 5, 3, 7`, `step` leaves STATE = 7, no response and STATUS = 0x0000_0033. -/
def Obligations.ModZeroFault : Prop :=
  (∀ s : State, s.Running → s.cfgValid = true → s.mod = 0#64 →
    exec .step s = .next { s with faulted := true, fcode := 0x3#4 }) ∧
  (∀ s t : State, step s = .next t → t.cfgValid = true → t.mod = 0#64 →
    (s.cfgValid = true ∧ s.mod = 0#64) ∨
    (s.validateParams = false ∧ ∃ (c : Command) (rest : List Command),
      s.commands = c :: rest ∧ c.cw = 0x00000002#32 ∧ c.opm = 0#64)) ∧
  (∀ (s : State) (act : HostAction), (s.hostAct act).cfgValid = s.cfgValid ∧ (s.hostAct act).mod = s.mod) ∧
  (∃ t u, exec (.cfgFull 0#64 5#64 3#64 7#64) State.reset = .next t ∧ exec .step t = .next u ∧
    u.state = 7#64 ∧ u.responses = [] ∧ u.statusWord = 0x00000033#32)

/-- 41_state_update.md R67: after a configuration with a seed, the k-th STEP responds X_k, where X_0 is the seed and
X_(k+1) = ((MUL *w X_k) +w INC) umod MOD. -/
def Obligations.ResponsesAreTheSequence : Prop :=
  (∀ (s : State) (m a c seed : Word) (k : Nat), s.Running → s.Accepts m a c → m ≠ 0#64 →
    ∃ t, exec (.cfgFull m a c seed) s = .next t ∧
      execTimes .step k t = .next { t with
        state := lcgSeq m a c seed k
        responses := s.responses ++ (List.range k).map (lcgSeq m a c seed) }) ∧
  (∀ (s : State) (seed : Word) (k : Nat), s.Running →
    ∃ t, exec (.cfgDefault seed) s = .next t ∧
      execTimes .step k t = .next { t with
        state := lcgSeq Config.defaultM Config.defaultA Config.defaultC seed k
        responses := s.responses ++
          (List.range k).map (lcgSeq Config.defaultM Config.defaultA Config.defaultC seed) }) ∧
  (∀ m a c seed : Word, lcgSeq m a c seed 0 = seed ∧
    ∀ k, lcgSeq m a c seed (k + 1) = umod (addw (mulw a (lcgSeq m a c seed k)) c) m)

/-- 41_state_update.md R71: a STEP computes the wrapped recurrence; it is the recurrence over the integers whenever
a·X + c < 2^64, always when m ≤ 2^32 and X, a, c are below m, and not always otherwise. -/
def Obligations.IntegerRecurrenceAgreement : Prop :=
  (∀ s : State, s.Running → s.cfgValid = true → s.mod ≠ 0#64 →
    ∃ t, exec .step s = .next t ∧ t.state = umod (addw (mulw s.mul s.state) s.inc) s.mod ∧
      t.state = lcgNext s.mod s.mul s.inc s.state) ∧
  (∀ m a c x : Word, m ≠ 0#64 → uval a * uval x + uval c < 2 ^ 64 →
    uval (lcgNext m a c x) = (uval a * uval x + uval c) % uval m) ∧
  (∀ m a c x : Word, uval m ≤ 2 ^ 32 → uval x < uval m → uval a < uval m → uval c < uval m →
    uval (lcgNext m a c x) = (uval a * uval x + uval c) % uval m) ∧
  (∃ m a c x : Word, m ≠ 0#64 ∧ uval (lcgNext m a c x) ≠ (uval a * uval x + uval c) % uval m)

/-- 41_state_update.md R72: after any STEP that completes STATE is below MOD; hence every response after the first of a
configuration is below MOD, and the first, the seed, may not be. -/
def Obligations.RangeLaw : Prop :=
  (∀ s t : State, exec .step s = .next t → t.faulted = false → uval t.state < uval t.mod) ∧
  (∀ (s t : State) (k : Nat), s.Running → s.cfgValid = true → s.mod ≠ 0#64 →
    execTimes .step k s = .next t →
    ∃ new, t.responses = s.responses ++ new ∧ new.length = k ∧ ∀ r ∈ new.tail, uval r < uval s.mod) ∧
  (∃ s t : State, s.Running ∧ s.cfgValid = true ∧ s.mod ≠ 0#64 ∧ exec .step s = .next t ∧
    ∃ r, t.responses = s.responses ++ [r] ∧ uval s.mod ≤ uval r)

/-- 41_state_update.md R73: the responses after a configuration are a function of (MOD, MUL, INC, seed) alone: two
blocks in any states, with either VALIDATE_PARAMS, that complete the same CFG_FULL then respond the same to the same
number of STEPs. -/
def Obligations.SequenceIsDeterministic : Prop :=
  ∀ (s s' t t' : State) (m a c seed : Word) (k : Nat), m ≠ 0#64 →
    exec (.cfgFull m a c seed) s = .next t → t.faulted = false →
    exec (.cfgFull m a c seed) s' = .next t' → t'.faulted = false →
    ∃ u u' new, execTimes .step k t = .next u ∧ execTimes .step k t' = .next u' ∧
      u.responses = s.responses ++ new ∧ u'.responses = s'.responses ++ new ∧ new.length = k ∧ u.state = u'.state

/-- 41_state_update.md R74: the states X_1, X_2, ... lie below MOD; the sequence is eventually periodic with period at
most MOD; a value repeats within the first MOD steps when the seed is below MOD, within MOD + 1 steps otherwise. -/
def Obligations.PeriodLaw : Prop :=
  ∀ m a c seed : Word, m ≠ 0#64 →
    (∀ k, uval (lcgSeq m a c seed (k + 1)) < uval m) ∧
    (∃ p n, 0 < p ∧ p ≤ uval m ∧ ∀ k, n ≤ k → lcgSeq m a c seed (k + p) = lcgSeq m a c seed k) ∧
    (uval seed < uval m → ∃ i j, i < j ∧ j ≤ uval m ∧ lcgSeq m a c seed i = lcgSeq m a c seed j) ∧
    (uval m ≤ uval seed → ∃ i j, i < j ∧ j ≤ uval m + 1 ∧ lcgSeq m a c seed i = lcgSeq m a c seed j)

/-- 41_state_update.md R76: the state after a configuration and n STEPs depends on the last configuration and the number
of STEPs: NOPs between them change nothing, and an earlier configuration leaves nothing behind. A STATUS read is
`State.statusWord`, which yields no state. -/
def Obligations.ConfigurationAndStepsCompose : Prop :=
  (∀ (cmds : List Instr) (s : State), s.Running → s.cfgValid = true → s.mod ≠ 0#64 →
    (∀ i ∈ cmds, i = .step ∨ i = .nop) →
    execList cmds s = execTimes .step (cmds.count .step) s) ∧
  (∀ (s t u : State) (m a c seed : Word) (n : Nat), s.Running → m ≠ 0#64 →
    exec (.cfgFull m a c seed) s = .next t → t.faulted = false → execTimes .step n t = .next u →
    u.mod = m ∧ u.mul = a ∧ u.inc = c ∧ u.state = lcgSeq m a c seed n ∧ u.cfgValid = true ∧ u.faulted = false) ∧
  (∀ (s t u : State) (seed : Word) (n : Nat), s.Running →
    exec (.cfgDefault seed) s = .next t → execTimes .step n t = .next u →
    u.mod = Config.defaultM ∧ u.mul = Config.defaultA ∧ u.inc = Config.defaultC ∧
    u.state = lcgSeq Config.defaultM Config.defaultA Config.defaultC seed n ∧
    u.cfgValid = true ∧ u.faulted = false)

/-- 70_reset_and_hazards.md section 2: after a CFG_FULL that completes with OPM not 0, no number of STEPs faults. -/
def Obligations.NonzeroModulusNeverFaults : Prop :=
  ∀ (s t : State) (m a c seed : Word) (n : Nat), m ≠ 0#64 →
    exec (.cfgFull m a c seed) s = .next t → t.faulted = false →
    ∃ u, execTimes .step n t = .next u ∧ u.faulted = false

/-! ### Frames -/

/-- 10_state.md R25: a STEP that completes adds exactly one response, the STATE before it, behind the earlier ones;
every other command, and every fault, adds none. -/
def Obligations.OnlyStepResponds : Prop :=
  (∀ (i : Instr) (s t : State), s.Running → exec i s = .next t →
    t.responses = s.responses ++ (if i = .step ∧ t.faulted = false then [s.state] else [])) ∧
  (∀ s t : State, s.Running → s.resetLine = false → step s = .next t → t.faulted = true →
    t.responses = s.responses)

/-- 10_state.md sections 2 and 4: what each command leaves unchanged. NOP: everything. STEP: MOD, MUL, INC, CFG_VALID;
STATE and the responses too where it faults; FAULTED and FCODE where it does not. CFG_*: the responses; the registers
and CFG_VALID too where it faults; FAULTED and FCODE where it does not. All: VALIDATE_PARAMS, the command port and the
reset input. The block has no memory. -/
def Obligations.CommandFrames : Prop :=
  (∀ s t : State, exec .nop s = .next t → t = s) ∧
  (∀ (i : Instr) (s t : State), exec i s = .next t →
    t.validateParams = s.validateParams ∧ t.commands = s.commands ∧ t.resetLine = s.resetLine) ∧
  (∀ (i : Instr) (s t : State), exec i s = .next t → i = .nop ∨ i = .step →
    t.mod = s.mod ∧ t.mul = s.mul ∧ t.inc = s.inc ∧ t.cfgValid = s.cfgValid) ∧
  (∀ (i : Instr) (s t : State), exec i s = .next t → i ≠ .step → t.responses = s.responses) ∧
  (∀ (i : Instr) (s t : State), exec i s = .next t → t.faulted = true →
    t.mod = s.mod ∧ t.mul = s.mul ∧ t.inc = s.inc ∧ t.state = s.state ∧ t.cfgValid = s.cfgValid ∧
    t.responses = s.responses) ∧
  (∀ (i : Instr) (s t : State), exec i s = .next t → t.faulted = false →
    s.faulted = false ∧ t.fcode = s.fcode)

/-- 20_memory.md section 2: CFG_* with the same operands and NOP are idempotent, STEP is not. -/
def Obligations.IdempotentCommands : Prop :=
  (∀ (i : Instr) (s t : State), i ≠ .step → exec i s = .next t → t.faulted = false → exec i t = .next t) ∧
  (∃ s t u : State, exec .step s = .next t ∧ exec .step t = .next u ∧ u.state ≠ t.state)

/-! ### Invariants and isolation -/

/-- The invariant of Safety.lean holds after reset, for either VALIDATE_PARAMS. -/
def Obligations.InvariantAtReset : Prop :=
  State.reset.Inv ∧ ∀ v : Bool, (State.resetWith v).Inv

/-- Every step keeps the invariant: FCODE is 0 or a code of the table and agrees with FAULTED, the recorded fault's
cause still stands, a configured block under VALIDATE_PARAMS holds valid parameters, and a block without a configuration
has no response pending. Every host action, at the ports as log entries 5 to 7 model them, keeps it too. -/
def Obligations.StepKeepsInvariant : Prop :=
  (∀ s t : State, s.Inv → step s = .next t → t.Inv) ∧
  (∀ (s : State) (act : HostAction), s.Inv → (s.hostAct act).Inv)

/-- In every state reached from reset by the block and any host (the ports as log entries 5 to 7 and the host as log
entry 12 model them), the invariant holds; under VALIDATE_PARAMS, MOD is then
never 0 in a configured block and MOD_ZERO is never recorded. -/
def Obligations.ReachableStatesKeepInvariant : Prop :=
  ∀ s : State, Reachable s → s.Inv ∧
    (s.validateParams = true → (s.cfgValid = true → s.mod ≠ 0#64) ∧ s.fcode ≠ 0x3#4)

/-- No step and no host action changes the built-in VALIDATE_PARAMS. -/
def Obligations.ValidateParamsIsHardwired : Prop :=
  (∀ s t : State, step s = .next t → t.validateParams = s.validateParams) ∧
  (∀ (s : State) (act : HostAction), (s.hostAct act).validateParams = s.validateParams)

/-- 10_state.md sections 2 and 6: what the data registers hold before a configuration is unobservable. Two states that
differ only in them show the host the same, and steps and host actions keep it so: they end both with related next
states or both with the same stop. (So nothing observable rests on log entry 1.) -/
def Obligations.UnconfiguredRegistersUnobservable : Prop :=
  ∀ s t : State, SameUnconfigured s t →
    s.observed = t.observed ∧
    OutcomesRelated SameUnconfigured (step s) (step t) ∧
    ∀ act : HostAction, SameUnconfigured (s.hostAct act) (t.hostAct act)

/-! ### The host side -/

/-- 42_host_derivations.md sections on next.long, next.int and next.bool (R77 to R79): the response read signed, its
upper 32 bits read signed, and its bit 32; a response below 2^32 gives 0 and false; and with a modulus of at most 2^32
every next.int after the first is 0, and the first is unless the seed is 2^32 or more. -/
def Obligations.HostIntegerDerivations : Prop :=
  (∀ r : Word, nextLong r = sval r ∧ BitVec.ofInt 64 (nextLong r) = r) ∧
  (∀ r : Word, nextInt r = (r.extractLsb' 32 32).toInt) ∧
  (∀ r : Word, nextBool r = r.getLsbD 32) ∧
  (∀ r : Word, uval r < 2 ^ 32 → nextInt r = 0 ∧ nextBool r = false) ∧
  (∀ (m a c seed : Word) (k : Nat), m ≠ 0#64 → uval m ≤ 2 ^ 32 →
    nextInt (lcgSeq m a c seed (k + 1)) = 0 ∧ (uval seed < 2 ^ 32 → nextInt (lcgSeq m a c seed 0) = 0))

/-- 42_host_derivations.md, on what derivations consume and write: host derivations in any mix draw the successive values
of the one sequence, one STEP each; the block's state after them is that of as many STEPs, STATUS unchanged; and each
result obeys the laws of the derivations. That the responses of those STEPs are still pending in that state is the
model's choice (log entry 13, a DESIGN CHOICE): the spec does not say when the host takes them off the port. So is that
each derivation starts where its STEP is accepted, nothing else coming between (log entry 14, a DESIGN CHOICE). -/
def Obligations.HostDerivationsDrawTheSequence : Prop :=
  (∀ (arith : Config.HostDoubleArith) (ds : List Derivation) (s : State),
    s.Running → s.cfgValid = true → s.mod ≠ 0#64 →
    ∃ t, hostNexts arith ds s =
        some (ds.zipIdx.map (fun dk => derive arith dk.1 (lcgSeq s.mod s.mul s.inc s.state dk.2)), t) ∧
      execTimes .step ds.length s = .next t ∧ t.statusWord = s.statusWord) ∧
  (∀ r : Word, nextBool r = decide (nextInt r % 2 = 1)) ∧
  (∀ r : Word, BitVec.ofInt 32 (nextInt r) = r.extractLsb' 32 32)

/-- 42_host_derivations.md R82: the two-int composition joins its halves with the low one zero-extended; applied to two
next.int results it gives the upper halves of two responses. -/
def Obligations.LongFromTwoInts : Prop :=
  (∀ high low : BitVec 32, longFromInts high low = high ++ low) ∧
  (∀ r1 r2 : Word,
    longFromInts (nextIntBits r1) (nextIntBits r2) = r1.extractLsb' 32 32 ++ r2.extractLsb' 32 32)

/-- 42_host_derivations.md, the section on corner cases of next.double, under its Java reading (the spec's general
knowledge, log entry 9): -1.0 for the most negative response, exactly 1.0 where the absolute value is at least
2^63 - 512, 0.0 for the response 0, and otherwise a pattern below that of 1.0 with the sign bit clear. -/
def Obligations.NextDoubleRange : Prop :=
  ∀ r : Word,
    if r = 0x8000000000000000#64 then nextDouble javaArith r = 0xBFF0000000000000#64
    else if 2 ^ 63 - 512 ≤ (sval r).natAbs then nextDouble javaArith r = 0x3FF0000000000000#64
    else if r = 0#64 then nextDouble javaArith r = 0x0000000000000000#64
    else uval (nextDouble javaArith r) < 0x3FF0000000000000

/-- 30_encoding.md section 5: the assembler accepts a line exactly when every operand is below 2^64, fills the lanes of
the command with the operands' values and every other lane with 0; a pseudo-instruction is one step. -/
def Obligations.AssemblerFillsLanes : Prop :=
  AsmLine.assemble .nop = some ⟨0x00000000#32, 0, 0, 0, 0⟩ ∧
  AsmLine.assemble .step = some ⟨0x00000003#32, 0, 0, 0, 0⟩ ∧
  (∀ d : Derivation, AsmLine.assemble (.next d) = AsmLine.assemble .step) ∧
  (∀ seed : Nat, (2 ^ 64 ≤ seed → AsmLine.assemble (.cfgDefault seed) = none) ∧
    (seed < 2 ^ 64 → ∃ x : Word, uval x = seed ∧
      AsmLine.assemble (.cfgDefault seed) = some ⟨0x00000001#32, 0, 0, 0, x⟩)) ∧
  (∀ m a c seed : Nat,
    ((2 ^ 64 ≤ m ∨ 2 ^ 64 ≤ a ∨ 2 ^ 64 ≤ c ∨ 2 ^ 64 ≤ seed) → AsmLine.assemble (.cfgFull m a c seed) = none) ∧
    (m < 2 ^ 64 → a < 2 ^ 64 → c < 2 ^ 64 → seed < 2 ^ 64 →
      ∃ wm wa wc wx : Word, uval wm = m ∧ uval wa = a ∧ uval wc = c ∧ uval wx = seed ∧
        AsmLine.assemble (.cfgFull m a c seed) = some ⟨0x00000002#32, wm, wa, wc, wx⟩))

/-- 20_memory.md section 2 leaves the bytes of a word on a bus to the host; this is about the model's own splitting (log
entry 11, a DESIGN CHOICE). Under either order of `HostByteOrder` the bytes of a word are as many as asked for and give
the word back, and the least significant byte stands first in `little` and last in `big`. -/
def Obligations.BusBytesRoundTrip : Prop :=
  (∀ (order : Config.HostByteOrder) (n v : Nat), v < 256 ^ n →
    (busBytes order n v).length = n ∧ busValue order (busBytes order n v) = v) ∧
  (∀ n v : Nat, (busBytes .little (n + 1) v).head? = some (BitVec.ofNat 8 v) ∧
    (busBytes .big (n + 1) v).getLast? = some (BitVec.ofNat 8 v))
end

