-- ==== Sys2Proof/Laws/Decode.lean ====
section
/-! SUPPORT. The command word and its two fields; what the decoder can answer. -/

namespace Sys2Proof

/-- The command word is its two fields (30_encoding.md R44). -/
theorem Command.cw_eq_fields (c : Command) : c.cw = c.rz ++ c.opcode := by
  apply BitVec.eq_of_getLsbD_eq
  intro i hi
  simp only [Command.rz, Command.opcode, BitVec.getLsbD_append, BitVec.getLsbD_extractLsb']
  by_cases h : i < 4
  · simp [h]
  · have : i - 4 < 28 := by omega
    simp [h, this, show 4 + (i - 4) = i by omega]

/-- A command word with RZ = 0 is determined by its opcode. -/
theorem Command.cw_eq_iff {c : Command} {op : BitVec 4} :
    c.cw = 0#28 ++ op ↔ c.rz = 0#28 ∧ c.opcode = op := by
  constructor
  · intro h
    have bits (i : Nat) : (c.rz ++ c.opcode).getLsbD i = (0#28 ++ op).getLsbD i := by rw [← c.cw_eq_fields, h]
    constructor
    · apply BitVec.eq_of_getLsbD_eq
      intro i _
      have hb := bits (i + 4)
      rw [BitVec.getLsbD_append, BitVec.getLsbD_append, if_neg (by omega), if_neg (by omega), Nat.add_sub_cancel] at hb
      exact hb
    · apply BitVec.eq_of_getLsbD_eq
      intro i hi
      have hb := bits i
      rwa [BitVec.getLsbD_append, BitVec.getLsbD_append, if_pos hi, if_pos hi] at hb
  · rintro ⟨hr, ho⟩
    rw [c.cw_eq_fields, hr, ho]

/-- Everything the decoder can answer, by the value of the command word (30_encoding.md R45, R48, R49). -/
theorem decode_cases (c : Command) :
    (c.cw = 0x0#32 ∧ decode c = .command .nop) ∨
    (c.cw = 0x1#32 ∧ decode c = .command (.cfgDefault c.ops)) ∨
    (c.cw = 0x2#32 ∧ decode c = .command (.cfgFull c.opm c.opa c.opc c.ops)) ∨
    (c.cw = 0x3#32 ∧ decode c = .command .step) ∨
    ((4 ≤ c.opcode.toNat ∨ c.rz ≠ 0#28) ∧
      c.cw ≠ 0x0#32 ∧ c.cw ≠ 0x1#32 ∧ c.cw ≠ 0x2#32 ∧ c.cw ≠ 0x3#32 ∧ ∃ why, decode c = .illegal why) := by
  have word (op : BitVec 4) : c.cw = 0#28 ++ op ↔ c.rz = 0#28 ∧ c.opcode = op := c.cw_eq_iff
  have w0 : c.cw = 0x0#32 ↔ _ := word 0#4
  have w1 : c.cw = 0x1#32 ↔ _ := word 1#4
  have w2 : c.cw = 0x2#32 ↔ _ := word 2#4
  have w3 : c.cw = 0x3#32 ↔ _ := word 3#4
  by_cases hr : c.rz = 0#28
  · by_cases h0 : c.opcode = 0#4
    · exact .inl ⟨w0.mpr ⟨hr, h0⟩, by simp [decode, hr, h0]⟩
    by_cases h1 : c.opcode = 1#4
    · exact .inr (.inl ⟨w1.mpr ⟨hr, h1⟩, by simp [decode, hr, h1]⟩)
    by_cases h2 : c.opcode = 2#4
    · exact .inr (.inr (.inl ⟨w2.mpr ⟨hr, h2⟩, by simp [decode, hr, h2]⟩))
    by_cases h3 : c.opcode = 3#4
    · exact .inr (.inr (.inr (.inl ⟨w3.mpr ⟨hr, h3⟩, by simp [decode, hr, h3]⟩)))
    have h4 : 4 ≤ c.opcode.toNat := by
      simp only [← BitVec.toNat_inj] at h0 h1 h2 h3
      simp at h0 h1 h2 h3
      omega
    exact .inr (.inr (.inr (.inr ⟨.inl h4, by simp [w0, h0], by simp [w1, h1], by simp [w2, h2], by simp [w3, h3],
      .opcodeReserved, by simp [decode, hr, h0, h1, h2, h3]⟩)))
  · exact .inr (.inr (.inr (.inr ⟨.inr hr, by simp [w0, hr], by simp [w1, hr], by simp [w2, hr], by simp [w3, hr],
      .rzNotZero, by simp [decode, hr]⟩)))

/-- The decoder accepts exactly the well-formed commands. -/
theorem decode_illegal_iff_not_wf (c : Command) : (decode c).toOption = none ↔ c.wf = false := by
  rcases decode_cases c with ⟨h, hd⟩ | ⟨h, hd⟩ | ⟨h, hd⟩ | ⟨h, hd⟩ | ⟨h, _, _, _, _, why, hd⟩
  on_goal 5 =>
    rcases h with h | h <;> simp [hd, Decoded.toOption, Command.wf, Command.rzOk, Command.opcodeOk, h]
  all_goals
    simp [hd, Decoded.toOption, Command.wf, Command.rzOk, Command.opcodeOk, Command.rz, Command.opcode, h]

end Sys2Proof
end

