-- ==== Sys2Proof/Laws/State.lean ====
section
/-! SUPPORT. One lemma per field of State for each update of the state, so that no proof unfolds an update. -/

namespace Sys2Proof.Machine

/-! ### R88: a fault writes FAULTED and FCODE. -/

@[simp] theorem State.raise_mod (code : FaultCode) (s : State) : (s.raise code).mod = s.mod := rfl
@[simp] theorem State.raise_mul (code : FaultCode) (s : State) : (s.raise code).mul = s.mul := rfl
@[simp] theorem State.raise_inc (code : FaultCode) (s : State) : (s.raise code).inc = s.inc := rfl
@[simp] theorem State.raise_state (code : FaultCode) (s : State) : (s.raise code).state = s.state := rfl
@[simp] theorem State.raise_cfgValid (code : FaultCode) (s : State) : (s.raise code).cfgValid = s.cfgValid := rfl
@[simp] theorem State.raise_faulted (code : FaultCode) (s : State) : (s.raise code).faulted = true := rfl
@[simp] theorem State.raise_fcode (code : FaultCode) (s : State) : (s.raise code).fcode = code.code := rfl
@[simp] theorem State.raise_validateParams (code : FaultCode) (s : State) : (s.raise code).validateParams = s.validateParams := rfl
@[simp] theorem State.raise_responses (code : FaultCode) (s : State) : (s.raise code).responses = s.responses := rfl
@[simp] theorem State.raise_commands (code : FaultCode) (s : State) : (s.raise code).commands = s.commands := rfl
@[simp] theorem State.raise_resetLine (code : FaultCode) (s : State) : (s.raise code).resetLine = s.resetLine := rfl

/-! ### R61: a configuration writes the four registers and CFG_VALID. -/

@[simp] theorem State.configure_mod (m a c seed : Word) (s : State) : (s.configure m a c seed).mod = m := rfl
@[simp] theorem State.configure_mul (m a c seed : Word) (s : State) : (s.configure m a c seed).mul = a := rfl
@[simp] theorem State.configure_inc (m a c seed : Word) (s : State) : (s.configure m a c seed).inc = c := rfl
@[simp] theorem State.configure_state (m a c seed : Word) (s : State) : (s.configure m a c seed).state = seed := rfl
@[simp] theorem State.configure_cfgValid (m a c seed : Word) (s : State) : (s.configure m a c seed).cfgValid = true := rfl
@[simp] theorem State.configure_faulted (m a c seed : Word) (s : State) : (s.configure m a c seed).faulted = s.faulted := rfl
@[simp] theorem State.configure_fcode (m a c seed : Word) (s : State) : (s.configure m a c seed).fcode = s.fcode := rfl
@[simp] theorem State.configure_validateParams (m a c seed : Word) (s : State) : (s.configure m a c seed).validateParams = s.validateParams := rfl
@[simp] theorem State.configure_responses (m a c seed : Word) (s : State) : (s.configure m a c seed).responses = s.responses := rfl
@[simp] theorem State.configure_commands (m a c seed : Word) (s : State) : (s.configure m a c seed).commands = s.commands := rfl
@[simp] theorem State.configure_resetLine (m a c seed : Word) (s : State) : (s.configure m a c seed).resetLine = s.resetLine := rfl

/-! ### R63: a completed STEP writes STATE and responds. -/

@[simp] theorem State.advance_mod (s : State) : s.advance.mod = s.mod := rfl
@[simp] theorem State.advance_mul (s : State) : s.advance.mul = s.mul := rfl
@[simp] theorem State.advance_inc (s : State) : s.advance.inc = s.inc := rfl
@[simp] theorem State.advance_state (s : State) : s.advance.state = lcgNext s.mod s.mul s.inc s.state := rfl
@[simp] theorem State.advance_cfgValid (s : State) : s.advance.cfgValid = s.cfgValid := rfl
@[simp] theorem State.advance_faulted (s : State) : s.advance.faulted = s.faulted := rfl
@[simp] theorem State.advance_fcode (s : State) : s.advance.fcode = s.fcode := rfl
@[simp] theorem State.advance_validateParams (s : State) : s.advance.validateParams = s.validateParams := rfl
@[simp] theorem State.advance_responses (s : State) : s.advance.responses = s.responses ++ [s.state] := rfl
@[simp] theorem State.advance_commands (s : State) : s.advance.commands = s.commands := rfl
@[simp] theorem State.advance_resetLine (s : State) : s.advance.resetLine = s.resetLine := rfl

/-! ### An accepted command leaves the port. -/

@[simp] theorem State.accept_mod (rest : List Command) (s : State) : (s.accept rest).mod = s.mod := rfl
@[simp] theorem State.accept_mul (rest : List Command) (s : State) : (s.accept rest).mul = s.mul := rfl
@[simp] theorem State.accept_inc (rest : List Command) (s : State) : (s.accept rest).inc = s.inc := rfl
@[simp] theorem State.accept_state (rest : List Command) (s : State) : (s.accept rest).state = s.state := rfl
@[simp] theorem State.accept_cfgValid (rest : List Command) (s : State) : (s.accept rest).cfgValid = s.cfgValid := rfl
@[simp] theorem State.accept_faulted (rest : List Command) (s : State) : (s.accept rest).faulted = s.faulted := rfl
@[simp] theorem State.accept_fcode (rest : List Command) (s : State) : (s.accept rest).fcode = s.fcode := rfl
@[simp] theorem State.accept_validateParams (rest : List Command) (s : State) : (s.accept rest).validateParams = s.validateParams := rfl
@[simp] theorem State.accept_responses (rest : List Command) (s : State) : (s.accept rest).responses = s.responses := rfl
@[simp] theorem State.accept_commands (rest : List Command) (s : State) : (s.accept rest).commands = rest := rfl
@[simp] theorem State.accept_resetLine (rest : List Command) (s : State) : (s.accept rest).resetLine = s.resetLine := rfl

/-! ### A placed command stands at the front of the port. -/

@[simp] theorem State.placeCommand_mod (c : Command) (s : State) : (s.placeCommand c).mod = s.mod := rfl
@[simp] theorem State.placeCommand_mul (c : Command) (s : State) : (s.placeCommand c).mul = s.mul := rfl
@[simp] theorem State.placeCommand_inc (c : Command) (s : State) : (s.placeCommand c).inc = s.inc := rfl
@[simp] theorem State.placeCommand_state (c : Command) (s : State) : (s.placeCommand c).state = s.state := rfl
@[simp] theorem State.placeCommand_cfgValid (c : Command) (s : State) : (s.placeCommand c).cfgValid = s.cfgValid := rfl
@[simp] theorem State.placeCommand_faulted (c : Command) (s : State) : (s.placeCommand c).faulted = s.faulted := rfl
@[simp] theorem State.placeCommand_fcode (c : Command) (s : State) : (s.placeCommand c).fcode = s.fcode := rfl
@[simp] theorem State.placeCommand_validateParams (c : Command) (s : State) : (s.placeCommand c).validateParams = s.validateParams := rfl
@[simp] theorem State.placeCommand_responses (c : Command) (s : State) : (s.placeCommand c).responses = s.responses := rfl
@[simp] theorem State.placeCommand_commands (c : Command) (s : State) : (s.placeCommand c).commands = c :: s.commands := rfl
@[simp] theorem State.placeCommand_resetLine (c : Command) (s : State) : (s.placeCommand c).resetLine = false := rfl

/-! ### R102: every item at its reset value. -/

@[simp] theorem State.takeReset_mod (s : State) : s.takeReset.mod = 0#64 := rfl
@[simp] theorem State.takeReset_mul (s : State) : s.takeReset.mul = 0#64 := rfl
@[simp] theorem State.takeReset_inc (s : State) : s.takeReset.inc = 0#64 := rfl
@[simp] theorem State.takeReset_state (s : State) : s.takeReset.state = 0#64 := rfl
@[simp] theorem State.takeReset_cfgValid (s : State) : s.takeReset.cfgValid = false := rfl
@[simp] theorem State.takeReset_faulted (s : State) : s.takeReset.faulted = false := rfl
@[simp] theorem State.takeReset_fcode (s : State) : s.takeReset.fcode = 0#4 := rfl
@[simp] theorem State.takeReset_validateParams (s : State) : s.takeReset.validateParams = s.validateParams := rfl
@[simp] theorem State.takeReset_responses (s : State) : s.takeReset.responses = [] := rfl
@[simp] theorem State.takeReset_commands (s : State) : s.takeReset.commands = s.commands := rfl
@[simp] theorem State.takeReset_resetLine (s : State) : s.takeReset.resetLine = false := rfl

/-! ### A host action writes the ports only. -/

@[simp] theorem State.hostAct_mod (act : HostAction) (s : State) : (s.hostAct act).mod = s.mod := by cases act <;> rfl
@[simp] theorem State.hostAct_mul (act : HostAction) (s : State) : (s.hostAct act).mul = s.mul := by cases act <;> rfl
@[simp] theorem State.hostAct_inc (act : HostAction) (s : State) : (s.hostAct act).inc = s.inc := by cases act <;> rfl
@[simp] theorem State.hostAct_state (act : HostAction) (s : State) : (s.hostAct act).state = s.state := by cases act <;> rfl
@[simp] theorem State.hostAct_cfgValid (act : HostAction) (s : State) : (s.hostAct act).cfgValid = s.cfgValid := by cases act <;> rfl
@[simp] theorem State.hostAct_faulted (act : HostAction) (s : State) : (s.hostAct act).faulted = s.faulted := by cases act <;> rfl
@[simp] theorem State.hostAct_fcode (act : HostAction) (s : State) : (s.hostAct act).fcode = s.fcode := by cases act <;> rfl
@[simp] theorem State.hostAct_validateParams (act : HostAction) (s : State) : (s.hostAct act).validateParams = s.validateParams := by cases act <;> rfl

@[simp] theorem State.offer_commands (c : Command) (s : State) :
    (s.hostAct (.offer c)).commands = s.commands ++ [c] := rfl
@[simp] theorem State.withdraw_commands (s : State) : (s.hostAct .withdraw).commands = [] := rfl
@[simp] theorem State.assertReset_resetLine (s : State) : (s.hostAct .assertReset).resetLine = true := rfl
@[simp] theorem State.takeResponse_responses (s : State) :
    (s.hostAct .takeResponse).responses = s.responses.tail := rfl

end Sys2Proof.Machine
end

