-- ==== Sys2Proof/Laws/Ops.lean ====
section
/-! SUPPORT. What each shared operation can do, said once; what each command's meaning can answer. -/

namespace Sys2Proof.Machine

/-- The halt rule: a next state exists only for a block that is not halted. -/
theorem unlessHalted_eq_next {s t : State} {run : State → Host.Outcome State Fault Refusal} :
    unlessHalted s run = .next t ↔ s.faulted = false ∧ run s = .next t := by
  cases h : s.faulted <;> simp [unlessHalted, h]

/-- A running block executes. -/
theorem unlessHalted_of_running {s : State} (run : State → Host.Outcome State Fault Refusal) (h : s.faulted = false) :
    unlessHalted s run = run s := by
  simp [unlessHalted, h]

/-- A halted block stops, whatever the command. -/
theorem exec_of_faulted (i : Instr) {s : State} (h : s.faulted = true) : exec i s = .fault .halted := by
  cases i <;> simp [exec, execNop, execCfgDefault, execCfgFull, execStep, unlessHalted, h]

/-- Everything the body of CFG_DEFAULT and CFG_FULL can do. -/
theorem configureChecked_cases (m a c seed : Word) (s : State) :
    (s.validateParams = true ∧ valid m a c = false ∧ configureChecked m a c seed s = s.raise .invalidParam) ∨
    ((s.validateParams = false ∨ valid m a c = true) ∧ configureChecked m a c seed s = s.configure m a c seed) := by
  cases hv : s.validateParams <;> cases hp : valid m a c <;> simp [configureChecked, hv, hp]

/-- The default constants satisfy the validation predicate. -/
theorem valid_defaults : valid Config.defaultM Config.defaultA Config.defaultC = true := by decide

/-- The body of CFG_DEFAULT never raises. -/
theorem configureChecked_defaults (seed : Word) (s : State) :
    configureChecked Config.defaultM Config.defaultA Config.defaultC seed s =
      s.configure Config.defaultM Config.defaultA Config.defaultC seed := by
  simp [configureChecked, valid_defaults]

/-- NOP answers a next state exactly for a running block: the same one. -/
theorem execNop_eq_next {s t : State} : execNop s = .next t ↔ s.faulted = false ∧ t = s := by
  rw [execNop, unlessHalted_eq_next]; simp [eq_comm (a := t)]

/-- CFG_DEFAULT answers a next state exactly for a running block: the configured one. -/
theorem execCfgDefault_eq_next {seed : Word} {s t : State} :
    execCfgDefault seed s = .next t ↔
      s.faulted = false ∧ t = s.configure Config.defaultM Config.defaultA Config.defaultC seed := by
  rw [execCfgDefault, unlessHalted_eq_next, configureChecked_defaults]; simp [eq_comm (a := t)]

/-- CFG_FULL answers a next state exactly for a running block: configured, or with INVALID_PARAM raised. -/
theorem execCfgFull_eq_next {m a c seed : Word} {s t : State} :
    execCfgFull m a c seed s = .next t ↔ s.faulted = false ∧ t = configureChecked m a c seed s := by
  rw [execCfgFull, unlessHalted_eq_next]; simp [eq_comm (a := t)]

/-- Everything a STEP with a next state can do. -/
theorem execStep_cases {s t : State} (h : execStep s = .next t) :
    s.faulted = false ∧
    ((s.cfgValid = false ∧ t = s.raise .notConfigured) ∨
     (s.cfgValid = true ∧ s.mod = 0#64 ∧ t = s.raise .modZero) ∨
     (s.cfgValid = true ∧ s.mod ≠ 0#64 ∧ t = s.advance)) := by
  obtain ⟨hf, h⟩ := unlessHalted_eq_next.mp h
  refine ⟨hf, ?_⟩
  cases hc : s.cfgValid with
  | false => simp [hc] at h; simp [← h]
  | true =>
    by_cases hm : s.mod = 0#64
    · simp [hc, hm] at h; simp [← h, hm]
    · simp [hc, hm] at h; simp [← h, hm]

/-- Everything a command with a next state can do: nothing, a configuration, a fault, or an advance. -/
theorem exec_cases {i : Instr} {s t : State} (h : exec i s = .next t) :
    s.faulted = false ∧
    ((i = .nop ∧ t = s) ∨
     (∃ x, i = .cfgDefault x ∧ t = s.configure Config.defaultM Config.defaultA Config.defaultC x) ∨
     (∃ m a c x, i = .cfgFull m a c x ∧ s.validateParams = true ∧ valid m a c = false ∧ t = s.raise .invalidParam) ∨
     (∃ m a c x, i = .cfgFull m a c x ∧ (s.validateParams = false ∨ valid m a c = true) ∧
       t = s.configure m a c x) ∨
     (i = .step ∧ s.cfgValid = false ∧ t = s.raise .notConfigured) ∨
     (i = .step ∧ s.cfgValid = true ∧ s.mod = 0#64 ∧ t = s.raise .modZero) ∨
     (i = .step ∧ s.cfgValid = true ∧ s.mod ≠ 0#64 ∧ t = s.advance)) := by
  cases i with
  | nop => simp [execNop_eq_next.mp h]
  | cfgDefault x => simp [execCfgDefault_eq_next.mp h]
  | cfgFull m a c x =>
    obtain ⟨hf, rfl⟩ := execCfgFull_eq_next.mp h
    refine ⟨hf, ?_⟩
    rcases configureChecked_cases m a c x s with ⟨hv, hp, hs⟩ | ⟨hv, hs⟩
    · exact .inr (.inr (.inl ⟨m, a, c, x, rfl, hv, hp, hs⟩))
    · exact .inr (.inr (.inr (.inl ⟨m, a, c, x, rfl, hv, hs⟩)))
  | step =>
    obtain ⟨hf, hs⟩ := execStep_cases h
    refine ⟨hf, ?_⟩
    rcases hs with hs | hs | hs <;> simp [hs]

/-- A STEP of a configured running block with MOD not 0 advances it. -/
theorem execStep_advances {s : State} (hf : s.faulted = false) (hc : s.cfgValid = true) (hm : s.mod ≠ 0#64) :
    execStep s = .next s.advance := by
  simp [execStep, unlessHalted, hf, hc, hm]

/-- A recurrence step is below a modulus that is not 0. -/
theorem lcgNext_lt {m : Word} (a c x : Word) (hm : m ≠ 0#64) : uval (lcgNext m a c x) < uval m := by
  have : 0 < m.toNat := Nat.pos_of_ne_zero fun h => hm (BitVec.eq_of_toNat_eq (by simpa using h))
  simpa [lcgNext, redStage, umod, uval, BitVec.toNat_umod] using Nat.mod_lt _ this

end Sys2Proof.Machine
end

