-- ==== Sys2Proof/Laws/PerInstr.lean ====
section
/-! SUPPORT. The family EncodingForm: each command's encoding is a well-formed tuple with zero in every lane the command
ignores (30_encoding.md R45, R46, R53). -/

namespace Sys2Proof.Laws.EncodingForm

/-- The encoding is well-formed, and every ignored lane is zero. -/
def Statement (i : Instr) : Prop :=
  (encode i).wf = true ∧
    ∀ l : Machine.Lane, Machine.usesLane i l = false → Machine.laneValue (encode i) l = 0#64

theorem nop : Statement .nop := ⟨by decide, fun l _ => by cases l <;> rfl⟩

theorem cfgDefault (seed : Word) : Statement (.cfgDefault seed) :=
  ⟨by simp [encode, Command.wf, Command.rzOk, Command.opcodeOk, Command.rz, Command.opcode], fun l h => by cases l <;> first | rfl | cases h⟩

theorem cfgFull (m a c seed : Word) : Statement (.cfgFull m a c seed) :=
  ⟨by simp [encode, Command.wf, Command.rzOk, Command.opcodeOk, Command.rz, Command.opcode], fun l h => by cases l <;> cases h⟩

theorem step : Statement .step := ⟨by decide, fun l _ => by cases l <;> rfl⟩

end Sys2Proof.Laws.EncodingForm
end

