-- ==== Sys2Proof/Laws/Step.lean ====
section
/-! SUPPORT. Everything a step of the block can do. -/

namespace Sys2Proof.Machine

/-- Reset comes before everything else. -/
theorem step_of_resetLine {s : State} (h : s.resetLine = true) : step s = .next s.takeReset := by
  simp [step, State.nextEvent, h]

/-- Nothing offered: nothing happens. -/
theorem step_of_idle {s : State} (h : s.resetLine = false) (hc : s.commands = []) : step s = .next s := by
  simp [step, State.nextEvent, h, hc]

/-- A command offered to a halted block. -/
theorem step_of_halted {s : State} {c : Command} {rest : List Command} (h : s.resetLine = false)
    (hc : s.commands = c :: rest) (hf : s.faulted = true) : step s = .fault .halted := by
  simp [step, State.nextEvent, h, hc, hf]

/-- A command offered to a running block: decoded, then run or raising ILLEGAL_CMD. -/
theorem step_of_running {s : State} {c : Command} {rest : List Command} (h : s.resetLine = false)
    (hc : s.commands = c :: rest) (hf : s.faulted = false) :
    step s = match decode c with
      | .command i => exec i (s.accept rest)
      | .illegal _ => .next ((s.accept rest).raise .illegalCmd) := by
  cases hd : decode c <;> simp [step, State.nextEvent, h, hc, hf, hd]

/-- Everything a step with a next state can be: reset, nothing, an illegal command, or a command run. -/
theorem step_cases {s t : State} (h : step s = .next t) :
    (s.resetLine = true ∧ t = s.takeReset) ∨
    (s.resetLine = false ∧ s.commands = [] ∧ t = s) ∨
    (s.resetLine = false ∧ s.faulted = false ∧ ∃ c rest, s.commands = c :: rest ∧
      ((∃ why, decode c = .illegal why ∧ t = (s.accept rest).raise .illegalCmd) ∨
       (∃ i, decode c = .command i ∧ exec i (s.accept rest) = .next t))) := by
  cases hr : s.resetLine with
  | true => rw [step_of_resetLine hr] at h; cases h; exact .inl ⟨rfl, rfl⟩
  | false =>
    cases hc : s.commands with
    | nil => rw [step_of_idle hr hc] at h; cases h; exact .inr (.inl ⟨rfl, rfl, rfl⟩)
    | cons c rest =>
      cases hf : s.faulted with
      | true => rw [step_of_halted hr hc hf] at h; cases h
      | false =>
        rw [step_of_running hr hc hf] at h
        refine .inr (.inr ⟨rfl, rfl, c, rest, rfl, ?_⟩)
        cases hd : decode c with
        | command i => rw [hd] at h; exact .inr ⟨i, rfl, h⟩
        | illegal why => rw [hd] at h; cases h; exact .inl ⟨why, rfl, rfl⟩

/-- The step after a table word is placed accepts that word. -/
theorem step_withFetchWord {s : State} (hf : s.faulted = false) (nbits w : Nat) :
    step (s.withFetchWord nbits w) = match decode (Command.ofTableWord nbits w) with
      | .command i => exec i { s with resetLine := false }
      | .illegal _ => .next (State.raise .illegalCmd { s with resetLine := false }) := by
  exact step_of_running (s := s.placeCommand (Command.ofTableWord nbits w)) rfl rfl hf

end Sys2Proof.Machine
end

