-- ==== Sys2Proof/Tests/Slice0.lean ====
section
/-! SUPPORT. Tests with results taken from spec/ (95_test_vectors.md and the examples of the rules), and for each
statement with hypotheses a witness that meets them. -/

namespace Sys2Proof.Tests

open Sys2Proof.Machine

/-! ### Well-formedness: each check refuses an ill-formed tuple -/

/-- 0x0000_0013 has RZ not zero (R49). -/
theorem test_wf_refuses_rz : (Command.rzOk ⟨0x00000013#32, 0, 0, 0, 0⟩) = false := by decide

/-- 0x0000_0004 has a reserved opcode (R48). -/
theorem test_wf_refuses_opcode : (Command.opcodeOk ⟨0x00000004#32, 0, 0, 0, 0⟩) = false := by decide

/-- Both checks pass on 0x0000_0003, and each failure makes the tuple ill-formed. -/
theorem test_wf_of_words :
    Command.wf ⟨0x00000003#32, 0, 0, 0, 0⟩ = true ∧ Command.wf ⟨0x00000013#32, 0, 0, 0, 0⟩ = false ∧
    Command.wf ⟨0x0000000F#32, 0, 0, 0, 0⟩ = false := by decide

/-- R54: an operand of 2^64 is out of range. -/
theorem test_wf_refuses_operand : (AsmLine.cfgDefault (2 ^ 64)).wf = false := by decide

/-! ### Decoding: the words of R45, bit 31 first -/

theorem test_decode_nop :
    decode ⟨0b00000000000000000000000000000000#32, 7, 7, 7, 7⟩ = .command .nop := by decide

theorem test_decode_cfg_default :
    decode ⟨0b00000000000000000000000000000001#32, 7, 7, 7, 5⟩ = .command (.cfgDefault 5) := by decide

/-- The listing of R56: `cfg.full 9, 2, 0, 1`. -/
theorem test_decode_cfg_full :
    decode ⟨0b00000000000000000000000000000010#32, 9, 2, 0, 1⟩ = .command (.cfgFull 9 2 0 1) := by decide

theorem test_decode_step :
    decode ⟨0b00000000000000000000000000000011#32, 7, 7, 7, 7⟩ = .command .step := by decide

/-- V-F2, V-F3, V-F4, V-F7, V-F9: the illegal words. -/
theorem test_decode_illegal :
    decode ⟨0x00000004#32, 0, 0, 0, 0⟩ = .illegal .opcodeReserved ∧
    decode ⟨0x00000013#32, 0, 0, 0, 0⟩ = .illegal .rzNotZero ∧
    decode ⟨0xFFFFFFFF#32, 0, 0, 0, 0⟩ = .illegal .rzNotZero ∧
    decode ⟨0x00000023#32, 0, 0, 0, 0⟩ = .illegal .rzNotZero ∧
    decode ⟨0x0000000F#32, 0, 0, 0, 0⟩ = .illegal .opcodeReserved := by decide

/-- The rows of spec/opcode_table.json, operand lanes zero. -/
theorem test_table_rows :
    decodeTableWord 32 0x0 = some .nop ∧ decodeTableWord 32 0x1 = some (.cfgDefault 0) ∧
    decodeTableWord 32 0x2 = some (.cfgFull 0 0 0 0) ∧ decodeTableWord 32 0x3 = some .step ∧
    decodeTableWord 32 0x4 = none := by decide

/-! ### One step of the machine -/

/-- A state with the given configuration. -/
def configured (m a c x : Word) : State := State.configure m a c x State.reset

/-- A state with a command offered. -/
def offering (c : Command) (s : State) : State := { s with commands := [c] }

/-- A field of the next state of a step. -/
def after {α : Type} (f : State → α) (o : Host.Outcome State Fault Refusal) : Option α := (nextOf o).map f

/-- Every row of the table runs as the first command after reset (R103): STATUS after it. -/
theorem test_first_commands :
    after State.statusWord (step (State.reset.withFetchWord 32 0x0)) = some 0x00000000#32 ∧
    after State.statusWord (step (State.reset.withFetchWord 32 0x1)) = some 0x00000001#32 ∧
    after State.statusWord (step (State.reset.withFetchWord 32 0x2)) = some 0x00000001#32 ∧
    after State.statusWord (step (State.reset.withFetchWord 32 0x3)) = some 0x00000022#32 := by decide

/-- V-C1. -/
theorem test_nop : step (offering ⟨0#32, 1, 2, 3, 4⟩ State.reset) = .next State.reset := by rfl

/-- V-C3: the ignored lanes of CFG_DEFAULT. -/
theorem test_cfg_default :
    after (fun s => [s.mod, s.mul, s.inc, s.state])
      (step (offering ⟨1#32, 0x123456789ABCDEF0#64, 0x123456789ABCDEF0#64, 0x123456789ABCDEF0#64, 0⟩ State.reset)) =
      some [0xFFFFFFFFFFFFFFFF#64, 0x5851F42D4C957F2D#64, 0x14057B7EF767814F#64, 0#64] := by decide

/-- V-C12: INVALID_PARAM keeps the configuration and CFG_VALID. -/
theorem test_cfg_full_invalid :
    after (fun s => (s.statusWord, s.mod, s.state))
      (exec (.cfgFull 0 0 0 0) (State.configure Config.defaultM Config.defaultA Config.defaultC 5 (State.resetWith true))) =
      some (0x00000143#32, 0xFFFFFFFFFFFFFFFF#64, 5#64) := by decide

/-- V-C10: valid parameters, a seed that is not checked. -/
theorem test_cfg_full_valid :
    after (fun s => (s.statusWord, s.state)) (exec (.cfgFull 9 8 8 100) (State.resetWith true)) =
      some (0x00000101#32, 100#64) := by decide

/-- V-S3: a product that wraps, and a sum with bit 63 set that the unsigned remainder keeps. -/
theorem test_step_default :
    after (fun s => (s.state, s.responses))
      (exec .step (configured Config.defaultM Config.defaultA Config.defaultC 0x1A08EE1184BA6D32#64)) =
      some (0x9AF678222E728119#64, [0x1A08EE1184BA6D32#64]) := by decide

/-- V-S8, V-S9, V-S12, V-S16: the sum all ones, a sum that wraps to 0, a product that wraps, a modulus with bit 63. -/
theorem test_step_corners :
    lcgNext Config.defaultM Config.defaultA Config.defaultC 0xD8FDC62EEEB52770#64 = 0#64 ∧
    lcgNext Config.defaultM Config.defaultA Config.defaultC 0x9995B5B621535015#64 = 0#64 ∧
    lcgNext 0xFFFFFFFF00000001#64 0x0000000100000000#64 0#64 0x0000000100000000#64 = 0#64 ∧
    lcgNext 0x8000000000000000#64 1#64 0#64 0xC000000000000000#64 = 0x4000000000000000#64 := by decide

/-- V-F4: an illegal word after `cfg.default 0`. -/
theorem test_illegal_after_configuration :
    after (fun s => (s.statusWord, s.state))
      (step (offering ⟨0xFFFFFFFF#32, 0, 0, 0, 0⟩ (configured Config.defaultM Config.defaultA Config.defaultC 0))) =
      some (0x00000013#32, 0#64) := by decide

/-- V-F5: STEP after `cfg.full 0, 5, 3, 7`. -/
theorem test_mod_zero :
    after (fun s => (s.statusWord, s.state, s.responses)) (exec .step (configured 0 5 3 7)) =
      some (0x00000033#32, 7#64, []) := by decide

/-- The state after V-F5. -/
def haltedState : State := State.raise .modZero (configured 0 5 3 7)

/-- V-F6: a halted block accepts nothing. -/
theorem test_halted : step (offering ⟨1#32, 0, 0, 0, 1⟩ haltedState) = .fault .halted := by rfl

/-- V-F8: reset out of a fault, whatever waits at the port. -/
theorem test_reset_from_fault :
    after (fun s => (s.statusWord, s.responses))
      (step ((offering ⟨3#32, 0, 0, 0, 0⟩ haltedState).hostAct .assertReset)) = some (0x00000000#32, []) := by decide

/-! ### Host side: V-H1 to V-H15; binary64 patterns of the listed decimal values -/

theorem test_next_long : nextLong 0x9AF678222E728119#64 = -7280499659394350823 := by decide

theorem test_next_int :
    nextInt 0x6C576FAC43FD007C#64 = 1817669548 ∧ nextInt 0x826886B3864A1B1B#64 = -2107078989 ∧
    nextInt 0x0000000000000005#64 = 0 := by decide

theorem test_next_bool :
    nextBool 0x1A08EE1184BA6D32#64 = true ∧ nextBool 0x14057B7EF767814F#64 = false := by decide

theorem test_next_double_corners :
    nextDouble javaArith 0x0000000000000000#64 = 0x0000000000000000#64 ∧
    nextDouble javaArith 0x8000000000000000#64 = 0xBFF0000000000000#64 ∧
    nextDouble javaArith 0x7FFFFFFFFFFFFFFF#64 = 0x3FF0000000000000#64 ∧
    nextDouble javaArith 0x8000000000000001#64 = 0x3FF0000000000000#64 ∧
    nextDouble javaArith 0x7FFFFFFFFFFFFE00#64 = 0x3FF0000000000000#64 ∧
    nextDouble javaArith 0x7FFFFFFFFFFFFDFF#64 = 0x3FEFFFFFFFFFFFFF#64 := by decide

/-- V-H13 (0.15641730975658777), V-H14 (2^-63) and Program 4 (0.7032812120731388). -/
theorem test_next_double_values :
    nextDouble javaArith 0x14057B7EF767814F#64 = 0x3FC4057B7EF76781#64 ∧
    nextDouble javaArith 0xFFFFFFFFFFFFFFFF#64 = 0x3C00000000000000#64 ∧
    nextDouble javaArith 0xA5FAE1992097AA0E#64 = 0x3FE6814799B7DA15#64 := by decide

theorem test_long_from_ints : longFromInts 0x00000001#32 0xFFFFFFFF#32 = 0x00000001FFFFFFFF#64 := by decide

/-- A word on either bus. -/
theorem test_bus_bytes :
    busBytes .little 4 0x00000102 = [0x02#8, 0x01#8, 0#8, 0#8] ∧
    busBytes .big 4 0x00000102 = [0#8, 0#8, 0x01#8, 0x02#8] := by decide

/-! ### Assembler: R53 to R56 -/

/-- The example of R56, with a comment and a hexadecimal literal with separators. -/
theorem test_read_cfg_full :
    readLine ['c', 'f', 'g', '.', 'f', 'u', 'l', 'l', ' ', '9', ',', ' ', '2', ',', '0', ',', '0', 'x', '0', '_', '1',
      ' ', ';', ' ', 'x'] = .line (.cfgFull 9 2 0 1) := by decide

theorem test_read_rejects :
    readLine ['s', 't', 'e', 'p', ' ', '1'] = .error ∧ readLine ['S', 'T', 'E', 'P'] = .error ∧
    readLine ['c', 'f', 'g', '.', 'd', 'e', 'f', 'a', 'u', 'l', 't', ' ', '-', '1'] = .error ∧
    readLine ['c', 'f', 'g', '.', 'd', 'e', 'f', 'a', 'u', 'l', 't', ' ',
      '1', '8', '4', '4', '6', '7', '4', '4', '0', '7', '3', '7', '0', '9', '5', '5', '1', '6', '1', '6'] = .error ∧
    readLine [' ', ';', 'n'] = .empty := by decide

theorem test_read_pseudo :
    readLine ['n', 'e', 'x', 't', '.', 'd', 'o', 'u', 'b', 'l', 'e'] = .line (.next .double) := by decide

/-- `00000003 - - - -`, and the command word and seed lane of `cfg.default 1` (Program 4). -/
theorem test_listing :
    listing .step = ['0', '0', '0', '0', '0', '0', '0', '3', ' ', '-', ' ', '-', ' ', '-', ' ', '-'] ∧
    listing (.cfgDefault 1) = ['0', '0', '0', '0', '0', '0', '0', '1', ' ', '-', ' ', '-', ' ', '-', ' ',
      '0', '0', '0', '0', '0', '0', '0', '0', '0', '0', '0', '0', '0', '0', '0', '1'] := by decide

/-! ### Witnesses: states and operands that meet the hypotheses of the statements -/

/-- The words 0 to 3. -/
abbrev nopCmd : Command := ⟨0#32, 0, 0, 0, 0⟩
abbrev defaultCmd : Command := ⟨1#32, 0, 0, 0, 5⟩
abbrev fullCmd (m a c x : Word) : Command := ⟨2#32, m, a, c, x⟩
abbrev stepCmd : Command := ⟨3#32, 0, 0, 0, 0⟩

theorem witness_decode_encode_agree :
    decode defaultCmd = .command (.cfgDefault 5) ∧ usesLane (.cfgDefault 5) .ops = true := by decide

/-- Clause by clause: the lowest and highest reserved opcodes, the lowest and highest RZ bits, 0x13. -/
theorem witness_reserved_encodings :
    (offering ⟨0x4#32, 0, 0, 0, 0⟩ State.reset).resetLine = false ∧ (offering nopCmd State.reset).Running ∧
    4 ≤ (Command.opcode ⟨0x4#32, 0, 0, 0, 0⟩).toNat ∧ 4 ≤ (Command.opcode ⟨0xF#32, 0, 0, 0, 0⟩).toNat ∧
    Command.rz ⟨0x13#32, 0, 0, 0, 0⟩ ≠ 0#28 ∧ Command.rz ⟨0x80000000#32, 0, 0, 0, 0⟩ ≠ 0#28 := by decide

/-- Two commands that differ in an ignored lane: of CFG_DEFAULT, of STEP; and equal lanes for CFG_FULL. -/
theorem witness_ignored_lanes :
    State.reset.resetLine = false ∧
    (⟨1#32, 1, 1, 1, 5⟩ : Command) ≠ ⟨1#32, 2, 2, 2, 5⟩ ∧ (⟨3#32, 1, 1, 1, 1⟩ : Command) ≠ ⟨3#32, 2, 2, 2, 2⟩ ∧
    (Command.cw ⟨1#32, 1, 1, 1, 5⟩ = Command.cw ⟨1#32, 2, 2, 2, 5⟩ ∧
      Command.ops ⟨1#32, 1, 1, 1, 5⟩ = Command.ops ⟨1#32, 2, 2, 2, 5⟩) ∧
    Command.cw ⟨3#32, 1, 1, 1, 1⟩ = Command.cw ⟨3#32, 2, 2, 2, 2⟩ ∧
    Command.cw ⟨2#32, 1, 2, 3, 4⟩ = 2#32 := by decide

theorem witness_step_runs :
    (offering stepCmd State.reset).resetLine = false ∧ (offering stepCmd State.reset).commands = [stepCmd] ∧
    decode stepCmd = .command .step := by decide

/-- One state for each branch of the priority order. -/
theorem witness_priority :
    haltedState.faulted = true ∧ haltedState.resetLine = false ∧
    (State.reset.Running ∧ decode ⟨4#32, 0, 0, 0, 0⟩ = .illegal .opcodeReserved) ∧
    State.reset.cfgValid = false ∧
    ((configured 0 5 3 7).cfgValid = true ∧ (configured 0 5 3 7).mod = 0#64) ∧
    ((configured 1 5 3 7).cfgValid = true ∧ (configured 1 5 3 7).mod ≠ 0#64) ∧
    ((State.resetWith true).validateParams = true ∧ valid 9 9 0 = false) ∧ valid 9 8 8 = true := by decide

/-- A step that raises a fault, of each of the four codes. -/
theorem witness_fault_raised :
    after (fun s => (s.faulted, s.fcode)) (step (offering ⟨4#32, 0, 0, 0, 0⟩ State.reset)) = some (true, 1#4) ∧
    after (fun s => (s.faulted, s.fcode)) (step (offering stepCmd State.reset)) = some (true, 2#4) ∧
    after (fun s => (s.faulted, s.fcode)) (step (offering stepCmd (configured 0 5 3 7))) = some (true, 3#4) ∧
    after (fun s => (s.faulted, s.fcode)) (step (offering (fullCmd 9 9 0 1) (State.resetWith true))) =
      some (true, 4#4) := by decide

/-- A halted block with a command, idle, and with reset asserted. -/
theorem witness_halted :
    (offering nopCmd haltedState).faulted = true ∧ (offering nopCmd haltedState).resetLine = false ∧
    (offering nopCmd haltedState).commands ≠ [] ∧ nextOf (step haltedState) = some haltedState ∧
    after State.faulted (step (haltedState.hostAct .assertReset)) = some false ∧
    (haltedState.hostAct .assertReset).resetLine = true := by decide

theorem witness_reset : (configured 9 4 1 0).resetLine = false ∧
    ((configured 9 4 1 0).hostAct .assertReset).resetLine = true := by decide

theorem witness_command_completes :
    (offering nopCmd State.reset).resetLine = false ∧ (offering nopCmd State.reset).Running ∧
    (offering nopCmd State.reset).commands = [nopCmd] := by decide

/-- The first command after reset: each clause, at the words where they meet. -/
theorem witness_first_command :
    nopCmd.cw = 0#32 ∧ defaultCmd.cw = 1#32 ∧ (fullCmd 9 8 8 0).cw = 2#32 ∧ valid 9 8 8 = true ∧
    valid 9 9 8 = false ∧ stepCmd.cw = 3#32 ∧ decode ⟨4#32, 0, 0, 0, 0⟩ = .illegal .opcodeReserved := by decide

/-- CFG_VALID changes by a configuration and by reset. -/
theorem witness_cfg_valid_changes :
    after State.cfgValid (step (offering defaultCmd State.reset)) = some true ∧ State.reset.cfgValid = false ∧
    after State.cfgValid (step (offering (fullCmd 9 4 1 0) State.reset)) = some true ∧
    after State.cfgValid (step ((configured 9 4 1 0).hostAct .assertReset)) = some false ∧
    after State.faulted (exec (.cfgDefault 5) State.reset) = some false ∧
    after State.faulted (exec (.cfgFull 9 4 1 0) State.reset) = some false := by decide

/-- FCODE: reset, a halted step, a step without and one with a fault. -/
theorem witness_fcode :
    nextOf (step (haltedState.hostAct .assertReset)) = some State.reset ∧
    nextOf (step haltedState) = some haltedState ∧
    after State.faulted (step (offering nopCmd State.reset)) = some false ∧
    after State.faulted (step (offering stepCmd State.reset)) = some true := by decide

theorem witness_running : State.reset.Running := by decide

/-- CFG_FULL: accepted without the check, accepted by it at its boundary, refused by it at the boundary of each
condition. -/
theorem witness_cfg_full :
    State.reset.Accepts 0 5 3 ∧ (State.resetWith true).Accepts 2 1 1 ∧ (State.resetWith true).Running ∧
    valid 2 1 1 = true ∧ valid 2 2 1 = false ∧ valid 2 1 2 = false ∧ valid 2 0 1 = false ∧ valid 0 0 0 = false ∧
    State.reset.validateParams = false ∧ (State.resetWith true).validateParams = true := by decide

/-- The seed: a completed CFG_FULL and one that raises. -/
theorem witness_seed :
    after State.faulted (exec (.cfgFull 9 8 8 100) (State.resetWith true)) = some false ∧
    after State.faulted (exec (.cfgFull 9 9 8 100) (State.resetWith true)) = some true ∧
    after State.faulted (exec (.cfgDefault 100) (State.resetWith true)) = some false ∧ (9#64) ≠ 0#64 := by decide

/-- A STEP that completes, at the smallest modulus, and its two faults. -/
theorem witness_step :
    ((configured 1 5 3 77).Running ∧ (configured 1 5 3 77).cfgValid = true ∧ (configured 1 5 3 77).mod ≠ 0#64) ∧
    after State.faulted (exec .step (configured 1 5 3 77)) = some false ∧
    (State.reset.Running ∧ State.reset.cfgValid = false) ∧
    ((configured 0 5 3 7).Running ∧ (configured 0 5 3 7).cfgValid = true ∧ (configured 0 5 3 7).mod = 0#64) := by
  decide

/-- A step into a configured block with MOD = 0, from outside and from within. -/
theorem witness_mod_zero_reached :
    after (fun s => (s.cfgValid, s.mod)) (step (offering (fullCmd 0 5 3 7) State.reset)) = some (true, 0#64) ∧
    after (fun s => (s.cfgValid, s.mod)) (step (configured 0 5 3 7)) = some (true, 0#64) := by decide

/-- E1 (m = 9, a = 2, c = 0, seed 1), and a run of STEPs. -/
theorem witness_sequence :
    State.reset.Running ∧ State.reset.Accepts 9 2 0 ∧ (9#64) ≠ 0#64 ∧
    after State.faulted (exec (.cfgFull 9 2 0 1) State.reset) = some false ∧
    after State.responses (execTimes .step 5 (configured 9 2 0 1)) = some [1, 2, 4, 8, 7] ∧
    after State.responses (execTimes .step 2 (configured Config.defaultM Config.defaultA Config.defaultC 0)) =
      some [0, 0x14057B7EF767814F#64] := by decide

/-- The integer recurrence: no wrap at the largest sum, and the largest modulus of the second clause. -/
theorem witness_integer_recurrence :
    uval 1#64 * uval 0xFFFFFFFFFFFFFFFE#64 + uval 1#64 < 2 ^ 64 ∧ (7#64) ≠ 0#64 ∧
    uval 0x100000000#64 ≤ 2 ^ 32 ∧ uval 0xFFFFFFFF#64 < uval 0x100000000#64 := by decide

/-- Two blocks in different states that complete the same CFG_FULL. -/
theorem witness_determinism :
    after State.faulted (exec (.cfgFull 9 4 1 0) State.reset) = some false ∧
    after State.faulted (exec (.cfgFull 9 4 1 0) (State.configure 3 1 1 10 (State.resetWith true))) = some false ∧
    State.reset ≠ State.configure 3 1 1 10 (State.resetWith true) := by decide

/-- V-S14: a seed below, at and above the modulus; 10, 2, 0, 1, 2 repeats at step m + 1. -/
theorem witness_period :
    (3#64) ≠ 0#64 ∧ uval 2#64 < uval 3#64 ∧ uval 3#64 ≤ uval 3#64 ∧ uval 3#64 ≤ uval 10#64 ∧
    (List.range 5).map (lcgSeq 3 1 1 10) = [10, 2, 0, 1, 2] := by decide

/-- A list of STEPs and NOPs on a configured block. -/
theorem witness_composition :
    (configured 9 4 1 0).Running ∧ (configured 9 4 1 0).cfgValid = true ∧ (configured 9 4 1 0).mod ≠ 0#64 ∧
    (∀ i ∈ [Instr.step, .nop, .step], i = .step ∨ i = .nop) ∧
    after State.state (execTimes .step 2 (configured 9 4 1 0)) = some 5#64 ∧
    after State.faulted (exec (.cfgDefault 5) State.reset) = some false := by decide

/-- Each frame clause: a command with a next state that completes, and one that faults. -/
theorem witness_frames :
    nextOf (exec .nop State.reset) = some State.reset ∧
    after State.faulted (exec .step (configured 9 4 1 0)) = some false ∧
    after State.faulted (exec .step State.reset) = some true ∧
    after State.faulted (exec (.cfgFull 9 4 1 0) State.reset) = some false ∧
    after State.faulted (exec (.cfgFull 9 9 1 0) (State.resetWith true)) = some true ∧
    Instr.nop ≠ .step ∧ Instr.cfgFull 9 4 1 0 ≠ .step := by decide

/-- The invariant holds of a configured and of a halted state, and their steps have next states. -/
theorem witness_invariant :
    (configured 9 4 1 0).Inv ∧ haltedState.Inv ∧ (nextOf (step (configured 9 4 1 0))).isSome = true ∧
    (nextOf (step (offering stepCmd (configured 9 4 1 0)))).isSome = true := by decide

/-- A reachable configured state under VALIDATE_PARAMS: offer `cfg.full 9, 8, 8, 100`, then a step. -/
theorem witness_reachable :
    Reachable (State.configure 9 8 8 100 (State.resetWith true)) ∧
    (State.configure 9 8 8 100 (State.resetWith true)).validateParams = true :=
  ⟨.block (s := (State.resetWith true).hostAct (.offer (fullCmd 9 8 8 100))) (.host _ (.init true)) rfl, rfl⟩

/-- Two states not configured that differ in the data registers. -/
theorem witness_same_unconfigured :
    SameUnconfigured State.reset { State.reset with mod := 9, mul := 4, inc := 1, state := 7 } ∧
    State.reset ≠ { State.reset with mod := 9, mul := 4, inc := 1, state := 7 } :=
  ⟨.inr ⟨rfl, rfl⟩, by decide⟩

/-- Responses at the boundary of next.int, and a modulus of 2^32. -/
theorem witness_host_integers :
    uval 0xFFFFFFFF#64 < 2 ^ 32 ∧ ¬ uval 0x100000000#64 < 2 ^ 32 ∧ (0x100000000#64) ≠ 0#64 ∧
    uval 0x100000000#64 ≤ 2 ^ 32 := by decide

/-- Program 4: a mix of derivations on a configured block. -/
theorem witness_host_derivations :
    (configured Config.defaultM Config.defaultA Config.defaultC 1).Running ∧
    (hostNexts javaArith [.long, .int, .bool, .double]
      (configured Config.defaultM Config.defaultA Config.defaultC 1)).map (fun p => (p.1, p.2.state)) =
      some ([.long 1, .int 1817669548, .bool true, .double 0x3FE6814799B7DA15#64], 0x620355CD119357C5#64) := by
  decide

/-- next.double: one response for each branch, where the branches meet. -/
theorem witness_next_double :
    (2 ^ 63 - 512 ≤ (sval 0x7FFFFFFFFFFFFE00#64).natAbs) ∧ ¬ (2 ^ 63 - 512 ≤ (sval 0x7FFFFFFFFFFFFDFF#64).natAbs) ∧
    (0x8000000000000001#64) ≠ 0x8000000000000000#64 ∧ (1#64) ≠ 0#64 := by decide

/-- Operands at the boundary of 2^64, and a word of four bytes. -/
theorem witness_assembler_and_bus :
    AsmLine.assemble (.cfgDefault (2 ^ 64 - 1)) = some ⟨1#32, 0, 0, 0, 0xFFFFFFFFFFFFFFFF#64⟩ ∧
    AsmLine.assemble (.cfgDefault (2 ^ 64)) = none ∧ AsmLine.assemble (.cfgFull 9 2 0 (2 ^ 64)) = none ∧
    AsmLine.assemble (.cfgFull 9 2 0 1) = some ⟨2#32, 9, 2, 0, 1⟩ ∧ (0xFFFFFFFF : Nat) < 256 ^ 4 := by decide

end Sys2Proof.Tests
end

section
/-! PROOFS. The statements of 10_state.md: STATUS, CFG_VALID, FCODE and the responses. -/

namespace Sys2Proof.Machine

/-! ### The status word (R23) -/

/-- A host action writes no field of STATUS. -/
@[simp] theorem State.hostAct_statusWord (act : HostAction) (s : State) :
    (s.hostAct act).statusWord = s.statusWord := by
  simp [State.statusWord]

/-- Bits 31:2 of STATUS are the word without its two lowest flags. -/
theorem State.extractLsb'_statusWord (s : State) (k n : Nat) :
    s.statusWord.extractLsb' (k + 2) n =
      (0#23 ++ BitVec.ofBool s.validateParams ++ s.fcode ++ 0#2).extractLsb' k n := by
  rw [State.statusWord, BitVec.extractLsb'_append_eq_of_le (by omega), BitVec.extractLsb'_append_eq_of_le (by omega)]
  rfl

/-- Settles O16: each field is read off the concatenation that STATUS is. -/
theorem statusWordLayout : Obligations.StatusWordLayout := by
  unfold Obligations.StatusWordLayout
  intro s
  refine ⟨?cfgValid, ?faulted, ?bits2, ?fcode, ?validate, ?bits9, fun act => s.hostAct_statusWord act⟩
  case cfgValid | faulted | validate => simp only [State.statusWord, BitVec.getLsbD_append]; simp
  case bits2 => rw [s.extractLsb'_statusWord 0, BitVec.extractLsb'_append_eq_right]
  case fcode =>
    rw [s.extractLsb'_statusWord 2, BitVec.extractLsb'_append_eq_of_le (by omega), BitVec.extractLsb'_append_eq_right]
  case bits9 =>
    rw [s.extractLsb'_statusWord 7, BitVec.extractLsb'_append_eq_of_le (by omega),
      BitVec.extractLsb'_append_eq_of_le (by omega), BitVec.extractLsb'_append_eq_of_le (by omega),
      BitVec.extractLsb'_eq_self]

/-! ### Who raises a fault, and what it leaves (R22, R25, R88) -/

/-- A command with a next state completes with both fault flags as they were, or raises one of the table's faults and
writes nothing else. -/
theorem exec_completes_or_raises {i : Instr} {s t : State} (h : exec i s = .next t) :
    (t.faulted = false ∧ t.fcode = s.fcode) ∨ ∃ code, t = s.raise code := by
  obtain ⟨hf, h⟩ := exec_cases h
  rcases h with ⟨-, rfl⟩ | ⟨x, -, rfl⟩ | ⟨m, a, c, x, -, -, -, rfl⟩ | ⟨m, a, c, x, -, -, rfl⟩ | ⟨-, -, rfl⟩ |
    ⟨-, -, -, rfl⟩ | ⟨-, -, -, rfl⟩
  · exact .inl ⟨hf, rfl⟩
  · exact .inl ⟨hf, rfl⟩
  · exact .inr ⟨_, rfl⟩
  · exact .inl ⟨hf, rfl⟩
  · exact .inr ⟨_, rfl⟩
  · exact .inr ⟨_, rfl⟩
  · exact .inl ⟨hf, rfl⟩

/-- A step of a running block without reset leaves both fault flags as they were, or accepts one command and raises one
of the table's faults on it, an illegal word's among them. -/
theorem step_completes_or_raises {s t : State} (hf : s.faulted = false) (hr : s.resetLine = false)
    (h : step s = .next t) :
    (t.faulted = false ∧ t.fcode = s.fcode) ∨
    ∃ c rest code, s.commands = c :: rest ∧ t = (s.accept rest).raise code := by
  rcases step_cases h with ⟨hr', -⟩ | ⟨-, -, rfl⟩ | ⟨-, -, c, rest, hc, ⟨why, -, rfl⟩ | ⟨i, -, hx⟩⟩
  · simp [hr] at hr'
  · exact .inl ⟨hf, rfl⟩
  · exact .inr ⟨c, rest, .illegalCmd, hc, rfl⟩
  · rcases exec_completes_or_raises hx with hk | ⟨code, rfl⟩
    · exact .inl hk
    · exact .inr ⟨c, rest, code, hc, rfl⟩

/-- A halted block without reset steps only where nothing is offered, to itself (R89). -/
theorem step_eq_self_of_faulted {s t : State} (hf : s.faulted = true) (hr : s.resetLine = false)
    (h : step s = .next t) : t = s := by
  rcases step_cases h with ⟨hr', -⟩ | ⟨-, -, rfl⟩ | ⟨-, hf', -⟩
  · simp [hr] at hr'
  · rfl
  · simp [hf] at hf'

/-- A step with reset asserted takes the reset (R102). -/
theorem step_eq_takeReset {s t : State} (hr : s.resetLine = true) (h : step s = .next t) : t = s.takeReset := by
  rw [step_of_resetLine hr] at h
  cases h
  rfl

/-- Settles O18: a halted block's steps without reset change nothing, and a running block's write FCODE by `raise`
only. -/
theorem fcodeKeepsFirstFault : Obligations.FcodeKeepsFirstFault := by
  unfold Obligations.FcodeKeepsFirstFault
  refine ⟨?reset, ?halted, ?running, fun s act => s.hostAct_fcode act⟩
  case reset =>
    intro s t hr h
    rw [step_eq_takeReset hr h, State.takeReset_fcode]
  case halted =>
    intro s t hr h hf
    rw [step_eq_self_of_faulted hf hr h]
  case running =>
    intro s t hr h hf
    rcases step_completes_or_raises hf hr h with hk | ⟨c, rest, code, -, rfl⟩
    · exact .inl hk
    · exact .inr ⟨rfl, code, rfl⟩

/-! ### CFG_VALID (R20) -/

/-- A command word that decodes to a command is that command's encoding. -/
theorem cw_eq_encode_of_decode {c : Command} {i : Instr} (h : decode c = .command i) : c.cw = (encode i).cw := by
  rcases decode_cases c with ⟨hw, hd⟩ | ⟨hw, hd⟩ | ⟨hw, hd⟩ | ⟨hw, hd⟩ | ⟨-, -, -, -, -, why, hd⟩ <;>
    cases hd.symm.trans h
  all_goals exact hw

/-- A command keeps CFG_VALID, or it is a configuration command that completes and sets it. -/
theorem exec_cfgValid {i : Instr} {s t : State} (h : exec i s = .next t) :
    t.cfgValid = s.cfgValid ∨
    (t.cfgValid = true ∧ t.faulted = false ∧ ((∃ x, i = .cfgDefault x) ∨ ∃ m a c x, i = .cfgFull m a c x)) := by
  obtain ⟨hf, h⟩ := exec_cases h
  rcases h with ⟨-, rfl⟩ | ⟨x, hi, rfl⟩ | ⟨m, a, c, x, -, -, -, rfl⟩ | ⟨m, a, c, x, hi, -, rfl⟩ | ⟨-, -, rfl⟩ |
    ⟨-, -, -, rfl⟩ | ⟨-, -, -, rfl⟩
  · exact .inl rfl
  · exact .inr ⟨rfl, hf, .inl ⟨x, hi⟩⟩
  · exact .inl rfl
  · exact .inr ⟨rfl, hf, .inr ⟨m, a, c, x, hi⟩⟩
  · exact .inl rfl
  · exact .inl rfl
  · exact .inl rfl

/-- A step that changes CFG_VALID is a reset that clears it, or runs a configuration command that completes and sets
it. -/
theorem step_cfgValid_change {s t : State} (h : step s = .next t) (hne : t.cfgValid ≠ s.cfgValid) :
    (s.resetLine = true ∧ t.cfgValid = false) ∨
    (t.cfgValid = true ∧ t.faulted = false ∧
      ∃ c rest, s.commands = c :: rest ∧ (c.cw = 0x00000001#32 ∨ c.cw = 0x00000002#32)) := by
  rcases step_cases h with ⟨hr, rfl⟩ | ⟨-, -, rfl⟩ | ⟨-, -, c, rest, hc, ⟨why, -, rfl⟩ | ⟨i, hd, hx⟩⟩
  · exact .inl ⟨hr, rfl⟩
  · exact absurd rfl hne
  · exact absurd rfl hne
  · have hw := cw_eq_encode_of_decode hd
    rcases exec_cfgValid hx with hk | ⟨hv, hf, ⟨x, rfl⟩ | ⟨m, a, k, x, rfl⟩⟩
    · exact absurd hk hne
    · exact .inr ⟨hv, hf, c, rest, hc, .inl hw⟩
    · exact .inr ⟨hv, hf, c, rest, hc, .inr hw⟩

/-- A STEP of a running block that was not configured raises NOT_CONFIGURED (R68). -/
theorem execStep_of_not_configured {s : State} (hf : s.faulted = false) (hc : s.cfgValid = false) :
    execStep s = .next (s.raise .notConfigured) := by
  simp [execStep, unlessHalted_of_running _ hf, hc]

/-- Settles O17: the changes of CFG_VALID by the cases of a step, and the check of CFG_VALID before STEP reads a data
register. -/
theorem cfgValidWriters : Obligations.CfgValidWriters := by
  unfold Obligations.CfgValidWriters
  refine ⟨fun s t => step_cfgValid_change, ?reset, ?cfgDefault, ?cfgFull, fun s act => s.hostAct_cfgValid act,
    fun s m a c x hf hc => execStep_of_not_configured hf hc⟩
  case reset =>
    intro s t hr h
    rw [step_eq_takeReset hr h, State.takeReset_cfgValid]
  case cfgDefault =>
    intro s t seed h _
    obtain ⟨-, rfl⟩ := execCfgDefault_eq_next.mp h
    rfl
  case cfgFull =>
    intro s t m a c seed h hf
    obtain ⟨-, rfl⟩ := execCfgFull_eq_next.mp h
    rcases configureChecked_cases m a c seed s with ⟨-, -, he⟩ | ⟨-, he⟩
    · simp [he] at hf
    · rw [he, State.configure_cfgValid]

/-! ### The responses (R25) -/

/-- What a command adds to the responses: the old STATE where it is a STEP that completes, nothing otherwise. -/
theorem exec_responses {i : Instr} {s t : State} (h : exec i s = .next t) :
    t.responses = s.responses ++ (if i = .step ∧ t.faulted = false then [s.state] else []) := by
  obtain ⟨hf, h⟩ := exec_cases h
  rcases h with ⟨rfl, rfl⟩ | ⟨x, rfl, rfl⟩ | ⟨m, a, c, x, rfl, -, -, rfl⟩ | ⟨m, a, c, x, rfl, -, rfl⟩ |
    ⟨rfl, -, rfl⟩ | ⟨rfl, -, -, rfl⟩ | ⟨rfl, -, -, rfl⟩ <;> simp [hf]

/-- Settles O36: by the cases of a command; a step that raises a fault writes the fault flags and the command port
only. -/
theorem onlyStepResponds : Obligations.OnlyStepResponds := by
  unfold Obligations.OnlyStepResponds
  refine ⟨fun i s t _ h => exec_responses h, ?_⟩
  intro s t hf hr h ht
  rcases step_completes_or_raises hf hr h with ⟨hk, -⟩ | ⟨c, rest, code, -, rfl⟩
  · simp [hk] at ht
  · rw [State.raise_responses, State.accept_responses]

end Sys2Proof.Machine
end

section
/-! PROOFS. The statements of 30_encoding.md: the words of the commands, the reserved encodings and the ignored lanes. -/

namespace Sys2Proof

/-! ### The command word (R45, R46, R50) -/

/-- Settles O1: the five clauses are read off each of the decoder's five answers. -/
theorem commandWordSelectsCommand : Obligations.CommandWordSelectsCommand := by
  unfold Obligations.CommandWordSelectsCommand
  intro c
  rcases decode_cases c with ⟨hw, hd⟩ | ⟨hw, hd⟩ | ⟨hw, hd⟩ | ⟨hw, hd⟩ | ⟨-, h0, h1, h2, h3, why, hd⟩
  · simp [hw, hd]
  · simp [hw, hd, eq_comm]
  · simp [hw, hd, eq_comm]
  · simp [hw, hd]
  · simp [hd, h0, h1, h2, h3]

/-- The decoder reads the command word, OPS for CFG_DEFAULT and the four lanes for CFG_FULL, and nothing else. -/
theorem decode_congr {c c' : Command} (hw : c.cw = c'.cw) (hdef : c.cw = 0x1#32 → c.ops = c'.ops)
    (hfull : c.cw = 0x2#32 → c.opm = c'.opm ∧ c.opa = c'.opa ∧ c.opc = c'.opc ∧ c.ops = c'.ops) :
    decode c = decode c' := by
  have hrz : c'.rz = c.rz := by rw [Command.rz, ← hw]; rfl
  have hop : c'.opcode = c.opcode := by rw [Command.opcode, ← hw]; rfl
  have word {op : BitVec 4} (hr : ¬c.rz ≠ 0#28) (h : c.opcode = op) : c.cw = 0#28 ++ op :=
    c.cw_eq_iff.mpr ⟨not_not.mp hr, h⟩
  rw [decode, decode, hrz, hop]
  split_ifs with hr h0 h1 h2 h3
  · rfl
  · rfl
  · rw [hdef (word hr h1)]
  · obtain ⟨hm, ha, hc, hs⟩ := hfull (word hr h2)
    rw [hm, ha, hc, hs]
  · rfl
  · rfl

/-! ### The reserved encodings (R48, R49) -/

/-- A command word is none of the four commands exactly where its opcode or its RZ is reserved. -/
theorem Command.wf_eq_false_iff (c : Command) : c.wf = false ↔ 4 ≤ c.opcode.toNat ∨ c.rz ≠ 0#28 := by
  simp [Command.wf, Command.rzOk, Command.opcodeOk, or_comm, imp_iff_not_or]

theorem Decoded.toOption_eq_none_iff (d : Decoded) : d.toOption = none ↔ ∃ why, d = .illegal why := by
  cases d <;> simp [Decoded.toOption]

/-- The decoder answers ILLEGAL exactly for the reserved encodings. -/
theorem decode_illegal_iff_reserved (c : Command) :
    (∃ why, decode c = .illegal why) ↔ 4 ≤ c.opcode.toNat ∨ c.rz ≠ 0#28 := by
  rw [← Decoded.toOption_eq_none_iff, decode_illegal_iff_not_wf, c.wf_eq_false_iff]

namespace Machine

/-- A running block accepts an illegal command and raises ILLEGAL_CMD (R91). -/
theorem step_of_illegal {s : State} {c : Command} {rest : List Command} {why : Illegal} (hr : s.resetLine = false)
    (hc : s.commands = c :: rest) (hf : s.faulted = false) (hd : decode c = .illegal why) :
    step s = .next ((s.accept rest).raise .illegalCmd) := by
  rw [step_of_running hr hc hf, hd]

/-- Settles O4: the reserved encodings are those the decoder calls ILLEGAL, and STEP has one word only. -/
theorem reservedEncodingsRaiseIllegal : Obligations.ReservedEncodingsRaiseIllegal := by
  unfold Obligations.ReservedEncodingsRaiseIllegal
  constructor
  · intro s c rest hr hf hc hres
    obtain ⟨why, hd⟩ := (decode_illegal_iff_reserved c).mpr hres
    exact step_of_illegal hr hc hf hd
  · intro c hw hd
    have hstep : c.cw = 0x3#32 := cw_eq_encode_of_decode hd
    simp [hw] at hstep

/-! ### The ignored lanes (R46) -/

/-- Settles O5: a halted block stops whatever the command, and a running one depends on the command through its
decoding. -/
theorem ignoredLanesHaveNoEffect : Obligations.IgnoredLanesHaveNoEffect := by
  unfold Obligations.IgnoredLanesHaveNoEffect
  intro s c c' rest hr hw hdef hfull
  by_cases hf : s.faulted = true
  · rw [step_of_halted (s := { s with commands := c :: rest }) hr rfl hf,
      step_of_halted (s := { s with commands := c' :: rest }) hr rfl hf]
  · have hrun : s.faulted = false := eq_false_of_ne_true hf
    rw [step_of_running (s := { s with commands := c :: rest }) hr rfl hrun,
      step_of_running (s := { s with commands := c' :: rest }) hr rfl hrun, decode_congr hw hdef hfull]
    rfl

end Machine

end Sys2Proof
end

section
/-! PROOFS. The statements of 40_configuration.md: NOP, CFG_DEFAULT and CFG_FULL, the validation predicate and the
seed. -/

namespace Sys2Proof

/-! ### The words of NOP, CFG_DEFAULT and CFG_FULL (R57 to R59) -/

theorem decode_of_nop_word {c : Command} (hw : c.cw = 0x00000000#32) : decode c = .command .nop := by
  obtain ⟨hnop, -⟩ := commandWordSelectsCommand c
  exact hnop.mpr hw

theorem decode_of_cfgDefault_word {c : Command} (hw : c.cw = 0x00000001#32) :
    decode c = .command (.cfgDefault c.ops) := by
  obtain ⟨-, hdef, -⟩ := commandWordSelectsCommand c
  exact (hdef c.ops).mpr ⟨hw, rfl⟩

theorem decode_of_cfgFull_word {c : Command} (hw : c.cw = 0x00000002#32) :
    decode c = .command (.cfgFull c.opm c.opa c.opc c.ops) := by
  obtain ⟨-, -, hfull, -⟩ := commandWordSelectsCommand c
  exact (hfull c.opm c.opa c.opc c.ops).mpr ⟨hw, rfl, rfl, rfl, rfl⟩

namespace Machine

/-! ### What each command does in a running block (R57 to R59) -/

theorem exec_nop_of_running {s : State} (hf : s.Running) : exec .nop s = .next s :=
  execNop_eq_next.mpr ⟨hf, rfl⟩

theorem exec_cfgDefault_of_running {s : State} (hf : s.Running) (seed : Word) :
    exec (.cfgDefault seed) s = .next (s.configure Config.defaultM Config.defaultA Config.defaultC seed) :=
  execCfgDefault_eq_next.mpr ⟨hf, rfl⟩

theorem exec_cfgFull_of_running {s : State} (hf : s.Running) (m a c seed : Word) :
    exec (.cfgFull m a c seed) s = .next (configureChecked m a c seed s) :=
  execCfgFull_eq_next.mpr ⟨hf, rfl⟩

theorem configureChecked_of_accepts {s : State} {m a c : Word} (h : s.Accepts m a c) (seed : Word) :
    configureChecked m a c seed s = s.configure m a c seed := by
  rcases h with hv | hp
  · simp [configureChecked, hv]
  · simp [configureChecked, hp]

theorem configureChecked_of_invalid {s : State} {m a c : Word} (hv : s.validateParams = true)
    (hp : valid m a c = false) (seed : Word) : configureChecked m a c seed s = s.raise .invalidParam := by
  simp [configureChecked, hv, hp]

/-- In a running block the check passes exactly where no fault results. -/
theorem configureChecked_faulted_eq_false_iff {s : State} (hf : s.Running) (m a c seed : Word) :
    (configureChecked m a c seed s).faulted = false ↔ s.Accepts m a c := by
  rcases configureChecked_cases m a c seed s with ⟨hv, hp, he⟩ | ⟨hacc, he⟩
  · simp [he, State.Accepts, hv, hp]
  · simp [he, hf, hacc]

/-- Settles O19: the word of NOP, its meaning, and one step from reset. -/
theorem nopDoesNothing : Obligations.NopDoesNothing := by
  unfold Obligations.NopDoesNothing
  refine ⟨fun c hw => decode_of_nop_word hw, fun s hf => exec_nop_of_running hf, ?fromReset⟩
  intro c hw
  have hstep : step { State.reset with commands := [c] } = .next State.reset := by
    rw [step_of_running (s := { State.reset with commands := [c] }) rfl rfl rfl, decode_of_nop_word hw]
    exact exec_nop_of_running rfl
  exact ⟨State.reset, hstep, by decide, rfl⟩

/-- Settles O20: the check of CFG_DEFAULT passes, since the default constants are valid. -/
theorem cfgDefaultWritesDefaults : Obligations.CfgDefaultWritesDefaults := by
  unfold Obligations.CfgDefaultWritesDefaults
  exact ⟨fun c hw => decode_of_cfgDefault_word hw, fun s seed hf => exec_cfgDefault_of_running hf seed, valid_defaults⟩

/-- Settles O21: CFG_FULL writes where its check passes and raises INVALID_PARAM where it does not. -/
theorem cfgFullWritesOrRefuses : Obligations.CfgFullWritesOrRefuses := by
  unfold Obligations.CfgFullWritesOrRefuses
  refine ⟨fun c hw => decode_of_cfgFull_word hw, ?writes, ?refuses, ?fromReset, ?cfgDefault⟩
  case writes =>
    intro s m a c seed hf hacc
    rw [exec_cfgFull_of_running hf, configureChecked_of_accepts hacc]
    rfl
  case refuses =>
    intro s m a c seed hf hv hp
    rw [exec_cfgFull_of_running hf, configureChecked_of_invalid hv hp]
    rfl
  case fromReset =>
    have hp : valid 9#64 9#64 0#64 = false := by decide
    refine ⟨(State.resetWith true).raise .invalidParam, ?_, rfl, by decide⟩
    rw [exec_cfgFull_of_running rfl, configureChecked_of_invalid rfl hp]
  case cfgDefault =>
    intro s t seed hf h
    obtain ⟨-, rfl⟩ := execCfgDefault_eq_next.mp h
    exact hf

/-! ### The validation predicate (R60) -/

/-- The two word tests and the two unsigned comparisons of the predicate, as integers. -/
theorem valid_eq_true_iff (m a c : Word) :
    valid m a c = true ↔ uval m ≠ 0 ∧ uval a ≠ 0 ∧ uval a < uval m ∧ uval c < uval m := by
  simp [valid, BitVec.ult, ← BitVec.toNat_inj, and_assoc]

/-- Settles O22: the predicate in integers, and CFG_FULL faults exactly where VALIDATE_PARAMS holds and the predicate
does not. -/
theorem validationPredicate : Obligations.ValidationPredicate := by
  unfold Obligations.ValidationPredicate
  refine ⟨valid_eq_true_iff, ?unchecked, ?checked⟩
  case unchecked =>
    intro s t m a c seed hf hv h
    obtain ⟨-, rfl⟩ := execCfgFull_eq_next.mp h
    exact (configureChecked_faulted_eq_false_iff hf m a c seed).mpr (.inl hv)
  case checked =>
    intro s t m a c seed hf hv h
    obtain ⟨-, rfl⟩ := execCfgFull_eq_next.mp h
    rw [configureChecked_faulted_eq_false_iff hf, ← valid_eq_true_iff]
    simp [State.Accepts, hv]

/-! ### All four registers or none (R61) -/

/-- Settles O23: a configuration writes the four registers, and INVALID_PARAM none of them. -/
theorem configurationReplacesAllOrNone : Obligations.ConfigurationReplacesAllOrNone := by
  unfold Obligations.ConfigurationReplacesAllOrNone
  constructor
  · intro s seed hf
    exact ⟨_, exec_cfgDefault_of_running hf seed, hf, rfl, rfl, rfl, rfl⟩
  · intro s m a c seed hf
    refine ⟨_, exec_cfgFull_of_running hf m a c seed, ?_⟩
    rcases configureChecked_cases m a c seed s with ⟨-, -, he⟩ | ⟨-, he⟩
    · rw [he]
      exact .inr ⟨rfl, rfl, rfl, rfl, rfl, rfl⟩
    · rw [he]
      exact .inl ⟨hf, rfl, rfl, rfl, rfl⟩

/-! ### The seed (R62) -/

/-- Another seed makes the check neither pass nor fail, and changes STATE only. -/
theorem configureChecked_seed {s : State} (hf : s.Running) (m a c seed seed' : Word) :
    configureChecked m a c seed' s =
      if (configureChecked m a c seed s).faulted then configureChecked m a c seed s
      else { configureChecked m a c seed s with state := seed' } := by
  rcases configureChecked_cases m a c seed s with ⟨hv, hp, he⟩ | ⟨hacc, he⟩
  · rw [he, configureChecked_of_invalid hv hp, State.raise_faulted, if_pos rfl]
  · rw [he, configureChecked_of_accepts hacc, State.configure_faulted, hf, if_neg Bool.false_ne_true]
    rfl

/-- The first STEP after a configuration responds the seed and leaves STATE below MOD. -/
theorem exec_step_of_configure {s : State} (hf : s.Running) {m : Word} (hm : m ≠ 0#64) (a c seed : Word) :
    ∃ u, exec .step (s.configure m a c seed) = .next u ∧ u.responses = s.responses ++ [seed] ∧
      uval u.state < uval m :=
  ⟨(s.configure m a c seed).advance, execStep_advances hf rfl hm, rfl, lcgNext_lt a c seed hm⟩

/-- Settles O24: no check reads the seed, and the configured block's first STEP responds it. -/
theorem seedIsNeverChecked : Obligations.SeedIsNeverChecked := by
  unfold Obligations.SeedIsNeverChecked
  refine ⟨?cfgFull, ?cfgDefault, ?stepAfterFull, ?stepAfterDefault⟩
  case cfgFull =>
    intro s t m a c seed seed' hf h
    obtain ⟨-, rfl⟩ := execCfgFull_eq_next.mp h
    rw [exec_cfgFull_of_running hf, configureChecked_seed hf m a c seed seed']
  case cfgDefault =>
    intro s t seed seed' hf h
    obtain ⟨-, rfl⟩ := execCfgDefault_eq_next.mp h
    exact exec_cfgDefault_of_running hf seed'
  case stepAfterFull =>
    intro s t m a c seed hf hm h ht
    obtain ⟨-, rfl⟩ := execCfgFull_eq_next.mp h
    rw [configureChecked_of_accepts ((configureChecked_faulted_eq_false_iff hf m a c seed).mp ht)]
    exact exec_step_of_configure hf hm a c seed
  case stepAfterDefault =>
    intro s t seed hf h
    obtain ⟨-, rfl⟩ := execCfgDefault_eq_next.mp h
    exact exec_step_of_configure hf (by decide) Config.defaultA Config.defaultC seed

end Machine

end Sys2Proof
end

section
/-! PROOFS. The statements of 41_state_update.md: the stages of STEP, its two faults, and the sequence of responses after
a configuration. -/

namespace Sys2Proof

/-! ### The word of STEP (R63) -/

theorem decode_of_step_word {c : Command} (hw : c.cw = 0x00000003#32) : decode c = .command .step := by
  obtain ⟨-, -, -, hstep, -⟩ := commandWordSelectsCommand c
  exact hstep.mpr hw

/-- A command that decodes to a CFG_FULL carries its word and, in lane OPM, its modulus. -/
theorem cw_opm_of_decode_cfgFull {cmd : Command} {m a c seed : Word}
    (h : decode cmd = .command (.cfgFull m a c seed)) : cmd.cw = 0x00000002#32 ∧ cmd.opm = m := by
  obtain ⟨-, -, hfull, -⟩ := commandWordSelectsCommand cmd
  obtain ⟨hw, hm, -⟩ := (hfull m a c seed).mp h
  exact ⟨hw, hm.symm⟩

namespace Machine

/-! ### The stages (R64 to R66) -/

theorem uval_mulStage (a x : Word) : uval (mulStage a x) = uval a * uval x % 2 ^ 64 :=
  BitVec.toNat_mul a x

theorem uval_addStage (p c : Word) : uval (addStage p c) = (uval p + uval c) % 2 ^ 64 :=
  BitVec.toNat_add p c

theorem uval_redStage (q m : Word) : uval (redStage q m) = uval q % uval m :=
  BitVec.toNat_umod

theorem mulStage_eq_ofInt (a x : Word) : mulStage a x = BitVec.ofInt 64 (sval a * sval x) := by
  simp [mulStage, BitVec.ofInt_mul]

theorem addStage_eq_ofInt (p c : Word) : addStage p c = BitVec.ofInt 64 (sval p + sval c) := by
  simp [addStage, BitVec.ofInt_add]

theorem uval_pos_of_ne_zero {m : Word} (hm : m ≠ 0#64) : 0 < uval m :=
  Nat.pos_of_ne_zero fun h => hm (BitVec.eq_of_toNat_eq h)

/-- One step of the recurrence in integers: the product and the sum wrap, then the remainder. -/
theorem uval_lcgNext (m a c x : Word) :
    uval (lcgNext m a c x) = (uval a * uval x % 2 ^ 64 + uval c) % 2 ^ 64 % uval m := by
  rw [lcgNext, uval_redStage, uval_addStage, uval_mulStage]

theorem lcgNext_eq_ofNat (m a c x : Word) :
    lcgNext m a c x = BitVec.ofNat 64 ((uval a * uval x % 2 ^ 64 + uval c) % 2 ^ 64 % uval m) := by
  rw [← uval_lcgNext, BitVec.ofNat_toNat, BitVec.setWidth_eq]

/-! ### When a STEP completes (R63, R68, R69) -/

/-- A block whose next STEP completes: it passes the checks of R89, R68 and R69. -/
structure State.CanStep (s : State) : Prop where
  running : s.Running
  configured : s.cfgValid = true
  mod_ne_zero : s.mod ≠ 0#64

theorem State.CanStep.exec_step {s : State} (h : s.CanStep) : exec .step s = .next s.advance :=
  execStep_advances h.running h.configured h.mod_ne_zero

theorem State.CanStep.advance {s : State} (h : s.CanStep) : s.advance.CanStep :=
  ⟨h.running, h.configured, h.mod_ne_zero⟩

theorem State.CanStep.of_configure {s : State} (hf : s.Running) {m : Word} (hm : m ≠ 0#64) (a c seed : Word) :
    (s.configure m a c seed).CanStep :=
  ⟨hf, rfl, hm⟩

/-- A STEP that completes advanced a block that could step. -/
theorem exec_step_completes {s t : State} (h : exec .step s = .next t) (ht : t.faulted = false) :
    s.CanStep ∧ t = s.advance := by
  obtain ⟨hf, ⟨-, rfl⟩ | ⟨-, -, rfl⟩ | ⟨hc, hm, rfl⟩⟩ := execStep_cases h
  · simp at ht
  · simp at ht
  · exact ⟨⟨hf, hc, hm⟩, rfl⟩

/-- A STEP of a running configured block with MOD = 0 raises MOD_ZERO (R69). -/
theorem execStep_of_mod_zero {s : State} (hf : s.faulted = false) (hc : s.cfgValid = true) (hm : s.mod = 0#64) :
    execStep s = .next (s.raise .modZero) := by
  simp [execStep, unlessHalted_of_running _ hf, hc, hm]

/-- Settles O25: the checks of STEP in their order, and the next STATE as an integer. -/
theorem stepAdvancesState : Obligations.StepAdvancesState := by
  unfold Obligations.StepAdvancesState
  refine ⟨fun c hw => decode_of_step_word hw, ?advances, fun s hf hc => execStep_of_not_configured hf hc,
    fun s hf hc hm => execStep_of_mod_zero hf hc hm⟩
  intro s hf hc hm
  rw [State.CanStep.exec_step ⟨hf, hc, hm⟩, State.advance, lcgNext_eq_ofNat]

/-- Settles O26: each stage in integers, unsigned and signed, and the three together in a STEP that completes. -/
theorem stagesOfTheStateUpdate : Obligations.StagesOfTheStateUpdate := by
  unfold Obligations.StagesOfTheStateUpdate
  refine ⟨fun a x => ⟨uval_mulStage a x, mulStage_eq_ofInt a x⟩, fun p c => ⟨uval_addStage p c, addStage_eq_ofInt p c⟩,
    ?red, ?step⟩
  case red =>
    intro q m hm
    rw [uval_redStage]
    exact ⟨rfl, Nat.mod_lt _ (uval_pos_of_ne_zero hm)⟩
  case step =>
    intro s t h ht
    obtain ⟨-, rfl⟩ := exec_step_completes h ht
    rfl

/-- Settles O27: STEP checks CFG_VALID before it reads a data register. -/
theorem notConfiguredFault : Obligations.NotConfiguredFault := by
  unfold Obligations.NotConfiguredFault
  constructor
  · intro s m a c x hf hc
    exact ⟨execStep_of_not_configured hf hc, execStep_of_not_configured hf hc⟩
  · exact ⟨_, execStep_of_not_configured rfl rfl, by decide, rfl⟩

/-! ### How a block comes to MOD = 0 (R69) -/

theorem mod_ne_zero_of_valid {m a c : Word} (h : valid m a c = true) : m ≠ 0#64 := by
  rintro rfl
  obtain ⟨hm, -⟩ := (valid_eq_true_iff _ a c).mp h
  exact hm rfl

/-- A command that leaves a configured block with MOD = 0 found it so, or is an unchecked CFG_FULL with modulus 0. -/
theorem exec_mod_zero {i : Instr} {s t : State} (h : exec i s = .next t) (hc : t.cfgValid = true)
    (hm : t.mod = 0#64) :
    (s.cfgValid = true ∧ s.mod = 0#64) ∨ (s.validateParams = false ∧ ∃ a c x, i = .cfgFull 0#64 a c x) := by
  obtain ⟨-, h⟩ := exec_cases h
  rcases h with ⟨-, rfl⟩ | ⟨x, -, rfl⟩ | ⟨m, a, c, x, -, -, -, rfl⟩ | ⟨m, a, c, x, hi, hacc, rfl⟩ | ⟨-, -, rfl⟩ |
    ⟨-, -, -, rfl⟩ | ⟨-, -, -, rfl⟩
  · exact .inl ⟨hc, hm⟩
  · exact absurd hm (mod_ne_zero_of_valid valid_defaults)
  · exact .inl ⟨hc, hm⟩
  · obtain rfl : m = 0#64 := hm
    exact .inr ⟨hacc.resolve_right fun hp => mod_ne_zero_of_valid hp rfl, a, c, x, hi⟩
  · exact .inl ⟨hc, hm⟩
  · exact .inl ⟨hc, hm⟩
  · exact .inl ⟨hc, hm⟩

/-- A step that leaves a configured block with MOD = 0 found it so, or accepts an unchecked CFG_FULL with OPM = 0. -/
theorem step_mod_zero {s t : State} (h : step s = .next t) (hc : t.cfgValid = true) (hm : t.mod = 0#64) :
    (s.cfgValid = true ∧ s.mod = 0#64) ∨
    (s.validateParams = false ∧ ∃ c rest, s.commands = c :: rest ∧ c.cw = 0x00000002#32 ∧ c.opm = 0#64) := by
  rcases step_cases h with ⟨-, rfl⟩ | ⟨-, -, rfl⟩ | ⟨-, -, c, rest, hcmd, ⟨why, -, rfl⟩ | ⟨i, hd, hx⟩⟩
  · simp at hc
  · exact .inl ⟨hc, hm⟩
  · exact .inl ⟨hc, hm⟩
  · rcases exec_mod_zero hx hc hm with hs | ⟨hv, a, k, x, rfl⟩
    · exact .inl hs
    · exact .inr ⟨hv, c, rest, hcmd, cw_opm_of_decode_cfgFull hd⟩

/-- Settles O28: the fault, the steps into MOD = 0, and the example, a CFG_FULL from reset with modulus 0. -/
theorem modZeroFault : Obligations.ModZeroFault := by
  unfold Obligations.ModZeroFault
  refine ⟨fun s hf hc hm => execStep_of_mod_zero hf hc hm, fun s t => step_mod_zero,
    fun s act => ⟨s.hostAct_cfgValid act, s.hostAct_mod act⟩, ?fromReset⟩
  refine ⟨State.reset.configure 0#64 5#64 3#64 7#64, _, ?_, execStep_of_mod_zero rfl rfl rfl, rfl, rfl, by decide⟩
  rw [exec_cfgFull_of_running rfl, configureChecked_of_accepts (.inl rfl)]

/-! ### The sequence (R67) and k STEPs in a row -/

/-- The sequence from its n-th value on is the sequence seeded with that value. -/
theorem lcgSeq_add (m a c seed : Word) (n k : Nat) :
    lcgSeq m a c seed (n + k) = lcgSeq m a c (lcgSeq m a c seed n) k := by
  induction k with
  | zero => rfl
  | succ k ih => rw [← Nat.add_assoc, lcgSeq, ih, lcgSeq]

theorem lcgSeq_lcgNext (m a c seed : Word) (k : Nat) :
    lcgSeq m a c (lcgNext m a c seed) k = lcgSeq m a c seed (k + 1) := by
  rw [Nat.add_comm, lcgSeq_add]
  rfl

/-- The first k + 1 values are the seed and the first k values from the second one on. -/
theorem map_lcgSeq_range_succ (m a c seed : Word) (k : Nat) :
    (List.range (k + 1)).map (lcgSeq m a c seed) =
      seed :: (List.range k).map (lcgSeq m a c (lcgNext m a c seed)) := by
  rw [List.range_succ_eq_map, List.map_cons, List.map_map]
  exact congrArg _ (List.map_congr_left fun i _ => (lcgSeq_lcgNext m a c seed i).symm)

/-- Every value after the seed is below a modulus that is not 0 (R72). -/
theorem lcgSeq_succ_lt {m : Word} (hm : m ≠ 0#64) (a c seed : Word) (k : Nat) :
    uval (lcgSeq m a c seed (k + 1)) < uval m :=
  lcgNext_lt a c (lcgSeq m a c seed k) hm

/-- The state after `k` completed STEPs: STATE holds X_k, and X_0, ..., X_(k-1) were responded. -/
def State.advanceBy (k : Nat) (s : State) : State :=
  { s with
    state := lcgSeq s.mod s.mul s.inc s.state k
    responses := s.responses ++ (List.range k).map (lcgSeq s.mod s.mul s.inc s.state) }

theorem State.advanceBy_zero (s : State) : s.advanceBy 0 = s := by
  simp [State.advanceBy, lcgSeq]

theorem State.advanceBy_succ (k : Nat) (s : State) : s.advanceBy (k + 1) = s.advance.advanceBy k := by
  simp [State.advanceBy, State.advance, map_lcgSeq_range_succ, lcgSeq_lcgNext]

theorem execTimes_succ_of_next {i : Instr} {s t : State} (h : exec i s = .next t) (k : Nat) :
    execTimes i (k + 1) s = execTimes i k t := by
  simp [execTimes, h]

theorem execList_cons_of_next {i : Instr} {s t : State} (h : exec i s = .next t) (is : List Instr) :
    execList (i :: is) s = execList is t := by
  simp [execList, h]

/-- The k STEPs of a block that can step all complete. -/
theorem State.CanStep.execTimes_step {s : State} (h : s.CanStep) (k : Nat) :
    execTimes .step k s = .next (s.advanceBy k) := by
  induction k generalizing s with
  | zero => rw [State.advanceBy_zero]; rfl
  | succ k ih => rw [execTimes_succ_of_next h.exec_step, ih h.advance, State.advanceBy_succ]

/-- After a configuration with MOD not 0 any number of STEPs complete. -/
theorem execTimes_step_configure {s : State} (hf : s.Running) {m : Word} (hm : m ≠ 0#64) (a c seed : Word) (k : Nat) :
    execTimes .step k (s.configure m a c seed) = .next ((s.configure m a c seed).advanceBy k) :=
  (State.CanStep.of_configure hf hm a c seed).execTimes_step k

/-- A CFG_FULL that completes configured a running block. -/
theorem exec_cfgFull_completes {m a c seed : Word} {s t : State} (h : exec (.cfgFull m a c seed) s = .next t)
    (ht : t.faulted = false) : s.Running ∧ t = s.configure m a c seed := by
  obtain ⟨hf, rfl⟩ := execCfgFull_eq_next.mp h
  exact ⟨hf, configureChecked_of_accepts ((configureChecked_faulted_eq_false_iff hf m a c seed).mp ht) seed⟩

/-- Settles O29: the configured block can step, and k STEPs advance it k times. -/
theorem responsesAreTheSequence : Obligations.ResponsesAreTheSequence := by
  unfold Obligations.ResponsesAreTheSequence
  refine ⟨?cfgFull, ?cfgDefault, fun m a c seed => ⟨rfl, fun k => rfl⟩⟩
  case cfgFull =>
    intro s m a c seed k hf hacc hm
    refine ⟨s.configure m a c seed, ?_, execTimes_step_configure hf hm a c seed k⟩
    rw [exec_cfgFull_of_running hf, configureChecked_of_accepts hacc]
  case cfgDefault =>
    intro s seed k hf
    have hm : Config.defaultM ≠ 0#64 := mod_ne_zero_of_valid valid_defaults
    exact ⟨_, exec_cfgDefault_of_running hf seed, execTimes_step_configure hf hm _ _ seed k⟩

/-! ### The recurrence over the integers (R71) -/

theorem uval_lcgNext_of_no_wrap (m : Word) {a c x : Word} (h : uval a * uval x + uval c < 2 ^ 64) :
    uval (lcgNext m a c x) = (uval a * uval x + uval c) % uval m := by
  rw [uval_lcgNext, Nat.mod_eq_of_lt (a := uval a * uval x) (by omega), Nat.mod_eq_of_lt h]

/-- With a modulus of at most 2^32 and operands below it, neither the product nor the sum wraps. -/
theorem no_wrap_of_modulus_le {m a c x : Nat} (hm : m ≤ 2 ^ 32) (hx : x < m) (ha : a < m) (hc : c < m) :
    a * x + c < 2 ^ 64 :=
  calc a * x + c < m * x + m := Nat.add_lt_add_of_le_of_lt (Nat.mul_le_mul_right x ha.le) hc
    _ = m * (x + 1) := rfl
    _ ≤ 2 ^ 32 * 2 ^ 32 := Nat.mul_le_mul hm (by omega)

/-- Settles O30: without a wrap the stages are the integer recurrence; the product 2^63 · 2 wraps to 0, where the
integers modulo 3 give 1. -/
theorem integerRecurrenceAgreement : Obligations.IntegerRecurrenceAgreement := by
  unfold Obligations.IntegerRecurrenceAgreement
  refine ⟨?step, fun m a c x _ h => uval_lcgNext_of_no_wrap m h,
    fun m a c x hm hx ha hc => uval_lcgNext_of_no_wrap m (no_wrap_of_modulus_le hm hx ha hc),
    3#64, 0x8000000000000000#64, 0#64, 2#64, by decide, by decide⟩
  intro s hf hc hm
  exact ⟨s.advance, State.CanStep.exec_step ⟨hf, hc, hm⟩, rfl, rfl⟩

/-! ### Below MOD (R72) -/

/-- All values but the first lie below a modulus that is not 0. -/
theorem mem_tail_map_lcgSeq_lt {m : Word} (hm : m ≠ 0#64) {a c seed r : Word} {k : Nat}
    (hr : r ∈ ((List.range k).map (lcgSeq m a c seed)).tail) : uval r < uval m := by
  cases k with
  | zero => simp at hr
  | succ k =>
    rw [map_lcgSeq_range_succ, List.tail_cons] at hr
    obtain ⟨i, -, rfl⟩ := List.mem_map.mp hr
    rw [lcgSeq_lcgNext]
    exact lcgSeq_succ_lt hm a c seed i

/-- Settles O31: the reduced value is below MOD; the seed 9 under the modulus 4 is responded unreduced. -/
theorem rangeLaw : Obligations.RangeLaw := by
  unfold Obligations.RangeLaw
  refine ⟨?one, ?many, ?first⟩
  case one =>
    intro s t h ht
    obtain ⟨hs, rfl⟩ := exec_step_completes h ht
    exact lcgNext_lt s.mul s.inc s.state hs.mod_ne_zero
  case many =>
    intro s t k hf hc hm h
    rw [State.CanStep.execTimes_step ⟨hf, hc, hm⟩] at h
    cases h
    exact ⟨_, rfl, by simp, fun r hr => mem_tail_map_lcgSeq_lt hm hr⟩
  case first =>
    have hs : (State.reset.configure 4#64 1#64 0#64 9#64).CanStep := .of_configure rfl (by decide) _ _ _
    exact ⟨_, _, hs.running, hs.configured, hs.mod_ne_zero, hs.exec_step, 9#64, rfl, by decide⟩

/-! ### Determinism (R73) and composition (R76) -/

/-- Settles O32: both blocks hold the same four registers after the configuration, and the sequence reads no others. -/
theorem sequenceIsDeterministic : Obligations.SequenceIsDeterministic := by
  unfold Obligations.SequenceIsDeterministic
  intro s s' t t' m a c seed k hm h ht h' ht'
  obtain ⟨hf, rfl⟩ := exec_cfgFull_completes h ht
  obtain ⟨hf', rfl⟩ := exec_cfgFull_completes h' ht'
  exact ⟨_, _, (List.range k).map (lcgSeq m a c seed), execTimes_step_configure hf hm a c seed k,
    execTimes_step_configure hf' hm a c seed k, rfl, rfl, by simp, rfl⟩

/-- STEPs and NOPs of a block that can step have the outcome of the STEPs alone. -/
theorem State.CanStep.execList_eq_execTimes_count {s : State} (h : s.CanStep) {cmds : List Instr}
    (hcmds : ∀ i ∈ cmds, i = .step ∨ i = .nop) : execList cmds s = execTimes .step (cmds.count .step) s := by
  induction cmds generalizing s with
  | nil => rfl
  | cons i is ih =>
    obtain ⟨hi, his⟩ := List.forall_mem_cons.mp hcmds
    rcases hi with rfl | rfl
    · rw [execList_cons_of_next h.exec_step, ih h.advance his, List.count_cons_self,
        execTimes_succ_of_next h.exec_step]
    · rw [execList_cons_of_next (exec_nop_of_running h.running), ih h his, List.count_cons_of_ne (by decide)]

/-- The registers and flags after a configuration and n STEPs. -/
theorem registers_of_configure_execTimes {s u : State} (hf : s.Running) {m a c seed : Word} (hm : m ≠ 0#64) {n : Nat}
    (h : execTimes .step n (s.configure m a c seed) = .next u) :
    u.mod = m ∧ u.mul = a ∧ u.inc = c ∧ u.state = lcgSeq m a c seed n ∧ u.cfgValid = true ∧ u.faulted = false := by
  rw [execTimes_step_configure hf hm] at h
  cases h
  exact ⟨rfl, rfl, rfl, rfl, rfl, hf⟩

/-- Settles O34: NOPs drop out one by one, and a configuration overwrites whatever the registers held. -/
theorem configurationAndStepsCompose : Obligations.ConfigurationAndStepsCompose := by
  unfold Obligations.ConfigurationAndStepsCompose
  refine ⟨?mix, ?cfgFull, ?cfgDefault⟩
  case mix =>
    intro cmds s hf hc hm hcmds
    exact State.CanStep.execList_eq_execTimes_count ⟨hf, hc, hm⟩ hcmds
  case cfgFull =>
    intro s t u m a c seed n hf hm h ht hu
    obtain ⟨-, rfl⟩ := exec_cfgFull_completes h ht
    exact registers_of_configure_execTimes hf hm hu
  case cfgDefault =>
    intro s t u seed n hf h hu
    obtain ⟨-, rfl⟩ := execCfgDefault_eq_next.mp h
    exact registers_of_configure_execTimes hf (mod_ne_zero_of_valid valid_defaults) hu

/-! ### The period (R74) -/

/-- Among MOD + 1 successive values below MOD two are equal (pigeonhole). -/
theorem exists_lcgSeq_repeat {m a c seed : Word} {n : Nat}
    (hlt : ∀ k, n ≤ k → uval (lcgSeq m a c seed k) < uval m) :
    ∃ i j, n ≤ i ∧ i < j ∧ j ≤ n + uval m ∧ lcgSeq m a c seed i = lcgSeq m a c seed j := by
  have hcard : (Finset.range (uval m)).card < (Finset.Icc n (n + uval m)).card := by
    rw [Finset.card_range, Nat.card_Icc]
    omega
  have hmaps : ∀ k ∈ Finset.Icc n (n + uval m), uval (lcgSeq m a c seed k) ∈ Finset.range (uval m) :=
    fun k hk => Finset.mem_range.mpr (hlt k (Finset.mem_Icc.mp hk).1)
  obtain ⟨i, hi, j, hj, hne, heq⟩ := Finset.exists_ne_map_eq_of_card_lt_of_maps_to hcard hmaps
  obtain ⟨hni, him⟩ := Finset.mem_Icc.mp hi
  obtain ⟨hnj, hjm⟩ := Finset.mem_Icc.mp hj
  have hval : lcgSeq m a c seed i = lcgSeq m a c seed j := BitVec.eq_of_toNat_eq heq
  rcases Nat.lt_or_gt_of_ne hne with hij | hji
  · exact ⟨i, j, hni, hij, hjm, hval⟩
  · exact ⟨j, i, hnj, hji, him, hval.symm⟩

/-- Once a value repeats, the sequence is periodic from there on. -/
theorem lcgSeq_periodic_of_repeat {m a c seed : Word} {i j : Nat} (hij : i ≤ j)
    (h : lcgSeq m a c seed i = lcgSeq m a c seed j) {k : Nat} (hk : i ≤ k) :
    lcgSeq m a c seed (k + (j - i)) = lcgSeq m a c seed k := by
  obtain ⟨d, rfl⟩ := Nat.exists_eq_add_of_le hk
  rw [show i + d + (j - i) = j + d by omega, lcgSeq_add, ← h, ← lcgSeq_add]

/-- Settles O33: two of the values X_1, ..., X_(MOD + 1) are equal, and two of X_0, ..., X_MOD where the seed too is
below MOD. -/
theorem periodLaw : Obligations.PeriodLaw := by
  unfold Obligations.PeriodLaw
  intro m a c seed hm
  have hsucc : ∀ k, 1 ≤ k → uval (lcgSeq m a c seed k) < uval m
    | k + 1, _ => lcgSeq_succ_lt hm a c seed k
  obtain ⟨i, j, hi, hij, hj, heq⟩ := exists_lcgSeq_repeat hsucc
  refine ⟨lcgSeq_succ_lt hm a c seed, ?periodic, ?seedBelow, fun _ => ⟨i, j, hij, by omega, heq⟩⟩
  case periodic =>
    exact ⟨j - i, i, by omega, by omega, fun k hk => lcgSeq_periodic_of_repeat hij.le heq hk⟩
  case seedBelow =>
    intro hseed
    have hall : ∀ k, 0 ≤ k → uval (lcgSeq m a c seed k) < uval m
      | 0, _ => hseed
      | k + 1, _ => lcgSeq_succ_lt hm a c seed k
    obtain ⟨i, j, -, hij, hj, heq⟩ := exists_lcgSeq_repeat hall
    exact ⟨i, j, hij, by omega, heq⟩

end Machine

end Sys2Proof
end

section
/-! PROOFS. The statements of 60_exceptions.md: the order of the checks, what a fault writes and why, and the halt. -/

namespace Sys2Proof.Machine

/-! ### The order of the checks (R90) -/

/-- A halted block has no step for an offered command (R89). -/
theorem step_ne_next_of_halted {s : State} {c : Command} {rest : List Command} (hr : s.resetLine = false)
    (hc : s.commands = c :: rest) (hf : s.faulted = true) (t : State) : step s ≠ .next t := by
  rw [step_of_halted hr hc hf]
  exact nofun

/-- A running block runs the command it accepts. -/
theorem step_of_command {s : State} {c : Command} {rest : List Command} {i : Instr} (hr : s.resetLine = false)
    (hc : s.commands = c :: rest) (hf : s.faulted = false) (hd : decode c = .command i) :
    step s = exec i (s.accept rest) := by
  rw [step_of_running hr hc hf, hd]

/-- A running block that accepts the word of STEP runs STEP. -/
theorem step_of_step_word {s : State} {c : Command} {rest : List Command} (hr : s.resetLine = false)
    (hc : s.commands = c :: rest) (hf : s.faulted = false) (hw : c.cw = 0x00000003#32) :
    step s = execStep (s.accept rest) :=
  step_of_command hr hc hf (decode_of_step_word hw)

/-- A running block under VALIDATE_PARAMS that accepts a CFG_FULL with invalid lanes raises INVALID_PARAM (R94). -/
theorem step_of_invalid_cfgFull {s : State} {c : Command} {rest : List Command} (hr : s.resetLine = false)
    (hc : s.commands = c :: rest) (hf : s.faulted = false) (hw : c.cw = 0x00000002#32)
    (hv : s.validateParams = true) (hp : valid c.opm c.opa c.opc = false) :
    step s = .next ((s.accept rest).raise .invalidParam) := by
  rw [step_of_command hr hc hf (decode_of_cfgFull_word hw), exec_cfgFull_of_running (s := s.accept rest) hf,
    configureChecked_of_invalid (s := s.accept rest) hv hp]

/-- No check of a legal command fails where it is not STEP and no CFG_FULL whose parameters are refused. -/
theorem step_completes_of_unchecked {s : State} {c : Command} {rest : List Command} (hr : s.resetLine = false)
    (hc : s.commands = c :: rest) (hf : s.faulted = false) (hlegal : ¬(4 ≤ c.opcode.toNat ∨ c.rz ≠ 0#28))
    (hstep : c.cw ≠ 0x00000003#32)
    (hfull : ¬(c.cw = 0x00000002#32 ∧ s.validateParams = true ∧ valid c.opm c.opa c.opc = false)) :
    ∃ t, step s = .next t ∧ t.faulted = false := by
  have hacc : (s.accept rest).Running := hf
  rcases decode_cases c with ⟨-, hd⟩ | ⟨-, hd⟩ | ⟨hw, hd⟩ | ⟨hw, -⟩ | ⟨hres, -⟩
  · exact ⟨_, (step_of_command hr hc hf hd).trans (exec_nop_of_running hacc), hf⟩
  · exact ⟨_, (step_of_command hr hc hf hd).trans (exec_cfgDefault_of_running hacc c.ops), hf⟩
  · have hchecked : (s.accept rest).Accepts c.opm c.opa c.opc := by
      simpa [hw, State.Accepts, imp_iff_not_or] using hfull
    exact ⟨_, (step_of_command hr hc hf hd).trans (exec_cfgFull_of_running hacc _ _ _ c.ops),
      (configureChecked_faulted_eq_false_iff hacc _ _ _ c.ops).mpr hchecked⟩
  · exact absurd hw hstep
  · exact absurd hres hlegal

/-- Settles O7: one case for each check, in the order of the rule, and one for each command that passes them all. -/
theorem faultPriorityOrder : Obligations.FaultPriorityOrder := by
  unfold Obligations.FaultPriorityOrder
  intro s c rest hr hc
  split_ifs with hhalt hres hstep hcfg hmod hfull
  · exact step_ne_next_of_halted hr hc hhalt
  all_goals have hf : s.faulted = false := eq_false_of_ne_true hhalt
  · obtain ⟨why, hd⟩ := (decode_illegal_iff_reserved c).mpr hres
    exact step_of_illegal hr hc hf hd
  · exact (step_of_step_word hr hc hf hstep).trans (execStep_of_not_configured hf hcfg)
  · exact (step_of_step_word hr hc hf hstep).trans (execStep_of_mod_zero hf (eq_true_of_ne_false hcfg) hmod)
  · exact ⟨_, (step_of_step_word hr hc hf hstep).trans (execStep_advances hf (eq_true_of_ne_false hcfg) hmod), hf⟩
  · obtain ⟨hw, hv, hp⟩ := hfull
    exact step_of_invalid_cfgFull hr hc hf hw hv hp
  · exact step_completes_of_unchecked hr hc hf hres hstep hfull

/-! ### What a fault writes, and its cause (R86, R88) -/

/-- A step that leaves the block faulted is no reset. -/
theorem resetLine_eq_false_of_step_faulted {s t : State} (h : step s = .next t) (ht : t.faulted = true) :
    s.resetLine = false := by
  by_contra hr
  obtain rfl := step_eq_takeReset (eq_true_of_ne_false hr) h
  simp at ht

/-- Settles O8: a step from a running to a faulted block accepted one command and raised on it. -/
theorem faultIsPrecise : Obligations.FaultIsPrecise := by
  unfold Obligations.FaultIsPrecise
  intro s t hf h ht
  rcases step_completes_or_raises hf (resetLine_eq_false_of_step_faulted h ht) h with
    ⟨hk, -⟩ | ⟨c, rest, code, hc, rfl⟩
  · simp [hk] at ht
  · exact ⟨c, rest, code, hc, rfl⟩

/-- Why a command of exec raises, by the code it writes: the two checks of STEP and the one of CFG_FULL. -/
theorem exec_fault_cause {i : Instr} {s t : State} (h : exec i s = .next t) (ht : t.faulted = true) :
    (t.fcode = 0x2#4 ∧ i = .step ∧ s.cfgValid = false) ∨
    (t.fcode = 0x3#4 ∧ i = .step ∧ s.cfgValid = true ∧ s.mod = 0#64) ∨
    (t.fcode = 0x4#4 ∧ s.validateParams = true ∧ ∃ m a c x, i = .cfgFull m a c x ∧ valid m a c = false) := by
  obtain ⟨hf, h⟩ := exec_cases h
  rcases h with ⟨-, rfl⟩ | ⟨x, -, rfl⟩ | ⟨m, a, c, x, hi, hv, hp, rfl⟩ | ⟨m, a, c, x, -, -, rfl⟩ | ⟨hi, hc, rfl⟩ |
    ⟨hi, hc, hm, rfl⟩ | ⟨-, -, -, rfl⟩
  · simp [hf] at ht
  · simp [hf] at ht
  · exact .inr (.inr ⟨rfl, hv, m, a, c, x, hi, hp⟩)
  · simp [hf] at ht
  · exact .inl ⟨rfl, hi, hc⟩
  · exact .inr (.inl ⟨rfl, hi, hc, hm⟩)
  · simp [hf] at ht

/-- Settles O11: the accepted command is illegal, or its meaning raised for one of its own causes. -/
theorem faultCodesAndCauses : Obligations.FaultCodesAndCauses := by
  unfold Obligations.FaultCodesAndCauses
  intro s t hf h ht
  rcases step_cases h with ⟨-, rfl⟩ | ⟨-, -, rfl⟩ | ⟨-, -, c, rest, hc, ⟨why, hd, rfl⟩ | ⟨i, hd, hx⟩⟩
  · simp at ht
  · simp [hf] at ht
  · exact ⟨c, rest, hc, .inl ⟨rfl, (decode_illegal_iff_reserved c).mp ⟨why, hd⟩⟩⟩
  · refine ⟨c, rest, hc, .inr ?_⟩
    have hw := cw_eq_encode_of_decode hd
    rcases exec_fault_cause hx ht with ⟨hcode, rfl, hcfg⟩ | ⟨hcode, rfl, hcfg, hm⟩ |
      ⟨hcode, hv, m, a, k, x, rfl, hp⟩
    · exact .inl ⟨hcode, hw, hcfg⟩
    · exact .inr (.inl ⟨hcode, hw, hcfg, hm⟩)
    · obtain ⟨-, -, hlanes, -⟩ := commandWordSelectsCommand c
      obtain ⟨-, rfl, rfl, rfl, -⟩ := (hlanes m a k x).mp hd
      exact .inr (.inr ⟨hcode, hw, hv, hp⟩)

/-! ### The halt and the way out (R89, R97) -/

/-- Settles O9: an offered command stops the halted block, and its steps without reset are those of an empty port. -/
theorem haltedBlockExecutesNothing : Obligations.HaltedBlockExecutesNothing := by
  unfold Obligations.HaltedBlockExecutesNothing
  refine ⟨?offered, ?direct, ?unchanged, ?cleared, fun s act => s.hostAct_statusWord act⟩
  case offered =>
    intro s t hf hr hne
    obtain ⟨c, rest, hc⟩ := List.exists_cons_of_ne_nil hne
    exact step_ne_next_of_halted hr hc hf t
  case direct =>
    intro i s t hf
    rw [exec_of_faulted i hf]
    exact nofun
  case unchanged =>
    intro s t hf hr h
    obtain rfl := step_eq_self_of_faulted hf hr h
    exact ⟨rfl, rfl, rfl, rfl, rfl, rfl⟩
  case cleared =>
    intro s t hf h ht
    by_contra hr
    obtain rfl := step_eq_self_of_faulted hf (eq_false_of_ne_true hr) h
    simp [hf] at ht

/-- Settles O10: without reset a step from a faulted state changes nothing; with reset it takes the reset. -/
theorem resetIsTheOnlyWayOut : Obligations.ResetIsTheOnlyWayOut := by
  unfold Obligations.ResetIsTheOnlyWayOut
  intro s t hf h
  constructor
  · intro hr
    obtain rfl := step_eq_self_of_faulted hf hr h
    exact ⟨hf, rfl⟩
  · intro hr
    obtain rfl := step_eq_takeReset hr h
    exact ⟨rfl, rfl⟩

end Sys2Proof.Machine
end

section
/-! PROOFS. The statements of 70_reset_and_hazards.md: the first command after reset, and that every command of a
running block completes. -/

namespace Sys2Proof.Machine

/-! ### Completion (R113) -/

/-- A running block has a next state for every command: the halt rule is the only stop. -/
theorem exists_exec_of_running {s : State} (hf : s.Running) (i : Instr) : ∃ t, exec i s = .next t := by
  cases i with
  | nop => exact ⟨_, exec_nop_of_running hf⟩
  | cfgDefault seed => exact ⟨_, exec_cfgDefault_of_running hf seed⟩
  | cfgFull m a c seed => exact ⟨_, exec_cfgFull_of_running hf m a c seed⟩
  | step =>
    by_cases hc : s.cfgValid = false
    · exact ⟨_, execStep_of_not_configured hf hc⟩
    · have hcfg : s.cfgValid = true := eq_true_of_ne_false hc
      by_cases hm : s.mod = 0#64
      · exact ⟨_, execStep_of_mod_zero hf hcfg hm⟩
      · exact ⟨_, execStep_advances hf hcfg hm⟩

/-- A command that runs leaves the command port alone, also when it faults. -/
theorem exec_commands {i : Instr} {s t : State} (h : exec i s = .next t) : t.commands = s.commands := by
  obtain ⟨-, h⟩ := exec_cases h
  rcases h with ⟨-, rfl⟩ | ⟨x, -, rfl⟩ | ⟨m, a, c, x, -, -, -, rfl⟩ | ⟨m, a, c, x, -, -, rfl⟩ | ⟨-, -, rfl⟩ |
    ⟨-, -, -, rfl⟩ | ⟨-, -, -, rfl⟩
  all_goals rfl

/-- Settles O15: an illegal word raises ILLEGAL_CMD once accepted; a legal one runs, and no run touches the port. -/
theorem everyCommandCompletes : Obligations.EveryCommandCompletes := by
  unfold Obligations.EveryCommandCompletes
  intro s c rest hr hf hc
  cases hd : decode c with
  | illegal why => exact ⟨_, step_of_illegal hr hc hf hd, rfl⟩
  | command i =>
    obtain ⟨t, ht⟩ := exists_exec_of_running (s := s.accept rest) hf i
    exact ⟨t, (step_of_command hr hc hf hd).trans ht, exec_commands ht⟩

/-! ### The first command after reset (R103) -/

/-- Settles O14: one case for each word of the opcode map and one for the illegal words; the check of CFG_FULL is the
only one whose answer depends on the build and the lanes. -/
theorem firstCommandAfterReset : Obligations.FirstCommandAfterReset := by
  unfold Obligations.FirstCommandAfterReset
  intro v c rest
  have hrun : (State.accept rest (State.resetWith v)).Running := rfl
  have hstep {i : Instr} (hd : decode c = .command i) :
      step { State.resetWith v with commands := c :: rest } = exec i (State.accept rest (State.resetWith v)) :=
    step_of_command rfl rfl rfl hd
  rcases decode_cases c with ⟨hw, hd⟩ | ⟨hw, hd⟩ | ⟨hw, hd⟩ | ⟨hw, hd⟩ | ⟨-, h0, h1, h2, h3, why, hd⟩
  · exact ⟨_, (hstep hd).trans (exec_nop_of_running hrun), iff_of_true hrun (.inl hw), by simp [hw], by simp [hd]⟩
  · exact ⟨_, (hstep hd).trans (exec_cfgDefault_of_running hrun c.ops), iff_of_true hrun (.inr (.inl hw)), by simp [hw],
      by simp [hd]⟩
  · have hcheck := configureChecked_faulted_eq_false_iff hrun c.opm c.opa c.opc c.ops
    exact ⟨_, (hstep hd).trans (exec_cfgFull_of_running hrun _ _ _ c.ops),
      hcheck.trans (by simp [hw, State.Accepts, State.resetWith]), by simp [hw], by simp [hd]⟩
  · exact ⟨_, (hstep hd).trans (execStep_of_not_configured hrun rfl), by simp [hw], fun _ => ⟨rfl, rfl⟩, by simp [hd]⟩
  · exact ⟨_, step_of_illegal rfl rfl rfl hd, by simp [h0, h1, h2], fun hw => absurd hw h3, fun _ => ⟨rfl, rfl⟩⟩

end Sys2Proof.Machine
end

section
/-! PROOFS. The statements of 30_encoding.md: the decoder against the encoder, the words of the opcode map and the
assembler. -/

namespace Sys2Proof

/-! ### Decoding an encoding (sections 1 to 4) -/

/-- The decoder reads back the command word and the lanes of an encoding. -/
theorem decode_encode (i : Instr) : decode (encode i) = .command i := by
  cases i with
  | nop => exact decode_of_nop_word rfl
  | cfgDefault seed => exact decode_of_cfgDefault_word rfl
  | cfgFull m a c seed => exact decode_of_cfgFull_word rfl
  | step => exact decode_of_step_word rfl

/-- A decoded command holds the value of every lane it uses. -/
theorem laneValue_eq_of_decode {c : Command} {i : Instr} (h : decode c = .command i) {l : Machine.Lane}
    (hl : Machine.usesLane i l = true) : Machine.laneValue c l = Machine.laneValue (encode i) l := by
  obtain ⟨-, hdefault, hfull, -⟩ := commandWordSelectsCommand c
  cases i with
  | nop | step => cases hl
  | cfgDefault seed =>
    obtain ⟨-, rfl⟩ := (hdefault seed).mp h
    cases l with
    | ops => rfl
    | opm | opa | opc => cases hl
  | cfgFull m a inc seed =>
    obtain ⟨-, rfl, rfl, rfl, rfl⟩ := (hfull m a inc seed).mp h
    cases l <;> rfl

/-! ### The one-number layout (log entry 8) -/

/-- A command is 32 + 4 · 64 bits. -/
theorem Command.toNat_lt (c : Command) : c.toNat < 2 ^ 288 := by
  have hcw := c.cw.isLt
  have hopm := c.opm.isLt
  have hopa := c.opa.isLt
  have hopc := c.opc.isLt
  have hops := c.ops.isLt
  simp only [Command.toNat]
  omega

/-- Each field is read from the bits it was laid out in. -/
theorem Command.ofNat_toNat (c : Command) : Command.ofNat c.toNat = c := by
  obtain ⟨cw, opm, opa, opc, ops⟩ := c
  have hcw := cw.isLt
  have hopm := opm.isLt
  have hopa := opa.isLt
  have hopc := opc.isLt
  have hops := ops.isLt
  simp only [Command.ofNat, Command.toNat, Command.mk.injEq, ← BitVec.toNat_inj, BitVec.toNat_ofNat]
  refine ⟨?_, ?_, ?_, ?_, ?_⟩ <;> omega

/-- Settles O2: the encoder writes the words and lanes the decoder reads, and the layout of a tuple as one number loses
no bit of it. -/
theorem decodeEncodeAgree : Obligations.DecodeEncodeAgree := by
  unfold Obligations.DecodeEncodeAgree
  refine ⟨decode_encode, fun c i h => ⟨Machine.cw_eq_encode_of_decode h, fun l hl => laneValue_eq_of_decode h hl⟩, ?_⟩
  intro i
  rw [decodeTableWord, Command.ofTableWord, Nat.mod_eq_of_lt (encode i).toNat_lt, Command.ofNat_toNat, decode_encode]
  rfl

/-- Settles O3: the four words in binary are the command words 0 to 3. -/
theorem decodedWordsOfTheMap : Obligations.DecodedWordsOfTheMap := by
  unfold Obligations.DecodedWordsOfTheMap
  exact ⟨decode_of_nop_word rfl, decode_of_cfgDefault_word rfl, decode_of_cfgFull_word rfl, decode_of_step_word rfl⟩

/-! ### The assembler (section 5) -/

namespace Machine

theorem operandOk_iff (v : Nat) : operandOk v = true ↔ v < 2 ^ 64 :=
  decide_eq_true_iff

theorem AsmLine.assemble_of_wf {l : AsmLine} (h : l.wf = true) : l.assemble = some (encode l.instr) :=
  if_pos h

theorem AsmLine.assemble_of_not_wf {l : AsmLine} (h : ¬ l.wf = true) : l.assemble = none :=
  if_neg h

/-- The four operands of `cfg.full` are each in range (R54). -/
theorem AsmLine.wf_cfgFull_iff (m a c seed : Nat) :
    (AsmLine.cfgFull m a c seed).wf = true ↔ m < 2 ^ 64 ∧ a < 2 ^ 64 ∧ c < 2 ^ 64 ∧ seed < 2 ^ 64 := by
  simp only [AsmLine.wf, Bool.and_eq_true, operandOk_iff, and_assoc]

/-- An operand in range is the value of its lane. -/
theorem uval_ofNat_of_lt {v : Nat} (h : v < 2 ^ 64) : uval (BitVec.ofNat 64 v) = v := by
  rw [uval, BitVec.toNat_ofNat, Nat.mod_eq_of_lt h]

/-- Settles O48: a line whose operands are in range assembles to the encoding of its command, any other line to
nothing. -/
theorem assemblerFillsLanes : Obligations.AssemblerFillsLanes := by
  unfold Obligations.AssemblerFillsLanes
  refine ⟨AsmLine.assemble_of_wf rfl, AsmLine.assemble_of_wf rfl, fun d => AsmLine.assemble_of_wf rfl, ?cfgDefault,
    ?cfgFull⟩
  case cfgDefault =>
    intro seed
    have hwf : (AsmLine.cfgDefault seed).wf = true ↔ seed < 2 ^ 64 := operandOk_iff seed
    exact ⟨fun hs => AsmLine.assemble_of_not_wf (by rw [hwf]; omega),
      fun hs => ⟨_, uval_ofNat_of_lt hs, AsmLine.assemble_of_wf (hwf.mpr hs)⟩⟩
  case cfgFull =>
    intro m a c seed
    have hwf := AsmLine.wf_cfgFull_iff m a c seed
    exact ⟨fun hs => AsmLine.assemble_of_not_wf (by rw [hwf]; omega),
      fun hm ha hc hs => ⟨_, _, _, _, uval_ofNat_of_lt hm, uval_ofNat_of_lt ha, uval_ofNat_of_lt hc,
        uval_ofNat_of_lt hs, AsmLine.assemble_of_wf (hwf.mpr ⟨hm, ha, hc, hs⟩)⟩⟩

end Machine

end Sys2Proof
end

section
/-! PROOFS. One step and one command: what a step runs, the reset values, what each command leaves unchanged. -/

namespace Sys2Proof.Machine

/-! ### A step runs the decoded command -/

/-- Settles O6: a running block runs the command it accepts; a halted one stops, offered or run directly. -/
theorem stepRunsDecodedCommand : Obligations.StepRunsDecodedCommand := by
  unfold Obligations.StepRunsDecodedCommand
  intro s c rest i hr hc hd
  by_cases hf : s.faulted = true
  · exact (step_of_halted hr hc hf).trans (exec_of_faulted (s := s.accept rest) i hf).symm
  · exact step_of_command hr hc (eq_false_of_ne_true hf) hd

/-! ### The reset values (10_state.md section 6) -/

/-- STATUS after reset shows VALIDATE_PARAMS alone. -/
theorem State.resetWith_statusWord (v : Bool) :
    (State.resetWith v).statusWord = if v then 0x00000100#32 else 0x00000000#32 := by
  cases v <;> decide

/-- Taking a reset shows the STATUS of the reset state of the same build. -/
theorem State.takeReset_statusWord (s : State) :
    s.takeReset.statusWord = (State.resetWith s.validateParams).statusWord := rfl

/-- Settles O12: reset is taken before anything else, and writes the reset values. -/
theorem resetFromAnyState : Obligations.ResetFromAnyState := by
  unfold Obligations.ResetFromAnyState
  intro s hr
  refine ⟨s.takeReset, step_of_resetLine hr, rfl, rfl, rfl, rfl, rfl, ?_⟩
  rw [State.takeReset_statusWord, State.resetWith_statusWord]

/-- Settles O13: the fields are those of the definition, and STATUS is read off them. -/
theorem resetStateValues : Obligations.ResetStateValues := by
  unfold Obligations.ResetStateValues
  exact ⟨fun v => ⟨rfl, rfl, rfl, rfl, State.resetWith_statusWord v⟩, rfl⟩

/-! ### Frames (10_state.md sections 2 and 4) -/

/-- No command touches VALIDATE_PARAMS or the reset input. -/
theorem exec_validateParams_resetLine {i : Instr} {s t : State} (h : exec i s = .next t) :
    t.validateParams = s.validateParams ∧ t.resetLine = s.resetLine := by
  obtain ⟨-, h⟩ := exec_cases h
  rcases h with ⟨-, rfl⟩ | ⟨x, -, rfl⟩ | ⟨m, a, c, x, -, -, -, rfl⟩ | ⟨m, a, c, x, -, -, rfl⟩ | ⟨-, -, rfl⟩ |
    ⟨-, -, -, rfl⟩ | ⟨-, -, -, rfl⟩
  all_goals exact ⟨rfl, rfl⟩

/-- Only a configuration writes MOD, MUL, INC and CFG_VALID. -/
theorem exec_configuration_of_nop_or_step {i : Instr} {s t : State} (h : exec i s = .next t)
    (hi : i = .nop ∨ i = .step) :
    t.mod = s.mod ∧ t.mul = s.mul ∧ t.inc = s.inc ∧ t.cfgValid = s.cfgValid := by
  rcases hi with rfl | rfl
  · obtain ⟨-, rfl⟩ := execNop_eq_next.mp h
    exact ⟨rfl, rfl, rfl, rfl⟩
  · obtain ⟨-, ⟨-, rfl⟩ | ⟨-, -, rfl⟩ | ⟨-, -, rfl⟩⟩ := execStep_cases h
    all_goals exact ⟨rfl, rfl, rfl, rfl⟩

/-- A command that leaves the block faulted raised one of the table's faults, whose frame is that of `raise` (R88). -/
theorem exec_raises_of_faulted {i : Instr} {s t : State} (h : exec i s = .next t) (ht : t.faulted = true) :
    ∃ code, t = s.raise code := by
  rcases exec_completes_or_raises h with ⟨hk, -⟩ | hraise
  · simp [hk] at ht
  · exact hraise

/-- A command that completes was run unfaulted and leaves FCODE. -/
theorem exec_completes {i : Instr} {s t : State} (h : exec i s = .next t) (ht : t.faulted = false) :
    s.faulted = false ∧ t.fcode = s.fcode := by
  obtain ⟨hf, -⟩ := exec_cases h
  rcases exec_completes_or_raises h with ⟨-, hcode⟩ | ⟨code, rfl⟩
  · exact ⟨hf, hcode⟩
  · simp at ht

/-- Settles O37: each frame by what the command, its completion or its fault writes. -/
theorem commandFrames : Obligations.CommandFrames := by
  unfold Obligations.CommandFrames
  refine ⟨?nop, ?ports, fun i s t => exec_configuration_of_nop_or_step, ?responses, ?fault, fun i s t => exec_completes⟩
  case nop =>
    intro s t h
    obtain ⟨-, ht⟩ := execNop_eq_next.mp h
    exact ht
  case ports =>
    intro i s t h
    obtain ⟨hv, hr⟩ := exec_validateParams_resetLine h
    exact ⟨hv, exec_commands h, hr⟩
  case responses =>
    intro i s t h hi
    rw [exec_responses h, if_neg fun hk => hi hk.1, List.append_nil]
  case fault =>
    intro i s t h ht
    obtain ⟨code, rfl⟩ := exec_raises_of_faulted h ht
    exact ⟨rfl, rfl, rfl, rfl, rfl, rfl⟩

/-- Settles O42: reset keeps the field it is built from, and no other step or action writes it. -/
theorem validateParamsIsHardwired : Obligations.ValidateParamsIsHardwired := by
  unfold Obligations.ValidateParamsIsHardwired
  refine ⟨?_, fun s act => s.hostAct_validateParams act⟩
  intro s t h
  rcases step_cases h with ⟨-, rfl⟩ | ⟨-, -, rfl⟩ | ⟨-, -, c, rest, -, ⟨why, -, rfl⟩ | ⟨i, -, hx⟩⟩
  · exact s.takeReset_validateParams
  · rfl
  · rfl
  · obtain ⟨hv, -⟩ := exec_validateParams_resetLine hx
    exact hv

/-! ### Repeated commands (20_memory.md section 2, 70_reset_and_hazards.md section 2) -/

/-- A configuration overwrites all that one with the same values wrote. -/
theorem State.configure_configure (m a c seed : Word) (s : State) :
    (s.configure m a c seed).configure m a c seed = s.configure m a c seed := rfl

/-- Settles O38: a repeated configuration passes the same check and writes the same values; two STEPs of E1 give 2,
then 4. -/
theorem idempotentCommands : Obligations.IdempotentCommands := by
  unfold Obligations.IdempotentCommands
  refine ⟨?idempotent, ?step⟩
  case idempotent =>
    intro i s t hi h ht
    cases i with
    | nop => exact exec_nop_of_running ht
    | cfgDefault seed =>
      obtain ⟨-, rfl⟩ := execCfgDefault_eq_next.mp h
      rw [exec_cfgDefault_of_running ht, State.configure_configure]
    | cfgFull m a c seed =>
      obtain ⟨hf, rfl⟩ := execCfgFull_eq_next.mp h
      have hacc : s.Accepts m a c := (configureChecked_faulted_eq_false_iff hf m a c seed).mp ht
      rw [configureChecked_of_accepts hacc] at ht ⊢
      rw [exec_cfgFull_of_running ht, configureChecked_of_accepts (s := s.configure m a c seed) hacc,
        State.configure_configure]
    | step => exact absurd rfl hi
  case step =>
    have hs : (State.reset.configure 9#64 2#64 0#64 1#64).CanStep := .of_configure rfl (by decide) _ _ _
    exact ⟨_, _, _, hs.exec_step, hs.advance.exec_step, by decide⟩

/-- Settles O35: the configured block can step, and each STEP leaves a block that can. -/
theorem nonzeroModulusNeverFaults : Obligations.NonzeroModulusNeverFaults := by
  unfold Obligations.NonzeroModulusNeverFaults
  intro s t m a c seed n hm h ht
  obtain ⟨hf, rfl⟩ := exec_cfgFull_completes h ht
  exact ⟨_, execTimes_step_configure hf hm a c seed n, hf⟩

end Sys2Proof.Machine
end

section
/-! PROOFS. The invariant of every reachable state: fault codes and their causes, valid parameters, responses
(60_exceptions.md, 40_configuration.md, 10_state.md). -/

namespace Sys2Proof.Machine

/-- A running block records no fault. -/
theorem State.FcodeOk.fcode_eq_zero {s : State} (h : s.FcodeOk) (hf : s.faulted = false) : s.fcode = 0#4 := by
  rcases h with ⟨-, hcode⟩ | ⟨hf', -⟩
  · exact hcode
  · simp [hf] at hf'

/-- No code of a fault is recorded, so no cause is asked for. -/
theorem State.causeOk_of_fcode_eq_zero {s : State} (h : s.fcode = 0#4) : s.CauseOk := by
  simp [State.CauseOk, h]

/-- The invariant holds after reset. -/
theorem State.inv_resetWith (v : Bool) : (State.resetWith v).Inv :=
  ⟨.inl ⟨rfl, rfl⟩, State.causeOk_of_fcode_eq_zero rfl, fun _ => nofun, fun _ => rfl⟩

/-- A raised fault writes FAULTED and a code of the table (R86). -/
theorem State.raise_fcodeOk (code : FaultCode) (s : State) : (s.raise code).FcodeOk := by
  cases code <;> simp [State.FcodeOk, FaultCode.code]

/-- A raised fault keeps the invariant where its own cause stands. -/
theorem State.Inv.raise {s : State} (h : s.Inv) {code : FaultCode} (hcause : (s.raise code).CauseOk) :
    (s.raise code).Inv := by
  obtain ⟨-, -, hparams, hresp⟩ := h
  exact ⟨s.raise_fcodeOk code, hcause, hparams, hresp⟩

/-- A configuration of a running block that passes the check of VALIDATE_PARAMS keeps the invariant. -/
theorem State.Inv.configure {s : State} (h : s.Inv) (hf : s.faulted = false) {m a c : Word} (hacc : s.Accepts m a c)
    (seed : Word) : (s.configure m a c seed).Inv := by
  obtain ⟨hcode, -, -, -⟩ := h
  refine ⟨hcode, State.causeOk_of_fcode_eq_zero (hcode.fcode_eq_zero hf), ?params, nofun⟩
  intro hv _
  exact hacc.resolve_left (by simpa using hv)

/-- A completed STEP responds only in a configured block, and writes nothing else the invariant reads. -/
theorem State.Inv.advance {s : State} (h : s.Inv) (hc : s.cfgValid = true) : s.advance.Inv := by
  obtain ⟨hcode, hcause, hparams, -⟩ := h
  exact ⟨hcode, hcause, hparams, fun hc' => by simp [hc] at hc'⟩

/-- Every command with a next state keeps the invariant. -/
theorem State.Inv.exec {i : Instr} {s t : State} (h : s.Inv) (hx : exec i s = .next t) : t.Inv := by
  obtain ⟨hf, hx⟩ := exec_cases hx
  rcases hx with ⟨-, rfl⟩ | ⟨x, -, rfl⟩ | ⟨m, a, c, x, -, hv, -, rfl⟩ | ⟨m, a, c, x, -, hacc, rfl⟩ | ⟨-, hc, rfl⟩ |
    ⟨-, hc, hm, rfl⟩ | ⟨-, hc, -, rfl⟩
  · exact h
  · exact h.configure hf (.inr valid_defaults) x
  · exact h.raise (by simp [State.CauseOk, FaultCode.code, hv])
  · exact h.configure hf hacc x
  · exact h.raise (by simp [State.CauseOk, FaultCode.code, hc])
  · exact h.raise (by simp [State.CauseOk, FaultCode.code, hc, hm])
  · exact h.advance hc

/-- The invariant does not read the command port. -/
theorem State.Inv.accept {s : State} (h : s.Inv) (rest : List Command) : (s.accept rest).Inv := h

/-- The invariant holds after a taken reset, whatever waits at the command port. -/
theorem State.inv_takeReset (s : State) : s.takeReset.Inv :=
  (State.inv_resetWith s.validateParams).accept s.commands

/-- Every step with a next state keeps the invariant. -/
theorem State.Inv.step {s t : State} (h : s.Inv) (hs : step s = .next t) : t.Inv := by
  rcases step_cases hs with ⟨-, rfl⟩ | ⟨-, -, rfl⟩ | ⟨-, -, c, rest, -, ⟨why, -, rfl⟩ | ⟨i, -, hx⟩⟩
  · exact s.inv_takeReset
  · exact h
  · exact (h.accept rest).raise (by simp [State.CauseOk, FaultCode.code])
  · exact (h.accept rest).exec hx

/-- No host action makes a response pend. -/
theorem State.hostAct_responses_eq_nil {s : State} (h : s.responses = []) (act : HostAction) :
    (s.hostAct act).responses = [] := by
  cases act with
  | takeResponse => rw [State.takeResponse_responses, h, List.tail_nil]
  | offer c => exact h
  | withdraw => exact h
  | assertReset => exact h

/-- Every host action keeps the invariant. -/
theorem State.Inv.hostAct {s : State} (h : s.Inv) (act : HostAction) : (s.hostAct act).Inv := by
  obtain ⟨hcode, hcause, hparams, hresp⟩ := h
  refine ⟨by simpa [State.FcodeOk] using hcode, by simpa [State.CauseOk] using hcause,
    by simpa [State.ParamsOk] using hparams, ?responses⟩
  intro hc
  exact State.hostAct_responses_eq_nil (hresp (by simpa using hc)) act

/-- Settles O39: the invariant at reset, of which State.reset is the default build. -/
theorem invariantAtReset : Obligations.InvariantAtReset := by
  unfold Obligations.InvariantAtReset
  exact ⟨State.inv_resetWith _, State.inv_resetWith⟩

/-- Settles O40: by the cases of a step and of a command, each keeping the four parts. -/
theorem stepKeepsInvariant : Obligations.StepKeepsInvariant := by
  unfold Obligations.StepKeepsInvariant
  exact ⟨fun s t h hs => h.step hs, fun s act h => h.hostAct act⟩

/-- The invariant holds in every reachable state: at reset, after a step and after a host action. -/
theorem Reachable.inv {s : State} (h : Reachable s) : s.Inv := by
  induction h with
  | init v => exact State.inv_resetWith v
  | block _ hs ih => exact ih.step hs
  | host act _ ih => exact ih.hostAct act

/-- Settles O41: under VALIDATE_PARAMS the configured parameters are valid, so MOD is not 0, and the cause of MOD_ZERO,
a configured MOD = 0, cannot stand. -/
theorem reachableStatesKeepInvariant : Obligations.ReachableStatesKeepInvariant := by
  unfold Obligations.ReachableStatesKeepInvariant
  intro s hs
  refine ⟨hs.inv, fun hv => ?_⟩
  obtain ⟨-, ⟨-, hcause, -⟩, hparams, -⟩ := hs.inv
  have hmod (hc : s.cfgValid = true) : s.mod ≠ 0#64 := mod_ne_zero_of_valid (hparams hv hc)
  refine ⟨hmod, fun hcode => ?_⟩
  obtain ⟨hc, hm⟩ := hcause hcode
  exact hmod hc hm

end Sys2Proof.Machine
end

section
/-! PROOFS. What the data registers hold before a configuration is unobservable (10_state.md sections 2 and 6). -/

namespace Sys2Proof.Machine

/-! ### The relation -/

/-- The state with other values in the four data registers. -/
def State.withData (m a c x : Word) (s : State) : State :=
  { s with mod := m, mul := a, inc := c, state := x }

/-- States equal but for the data registers are one state with other values in them. -/
theorem EqualButData.exists_withData {s t : State} (h : EqualButData s t) : ∃ m a c x, t = s.withData m a c x :=
  ⟨t.mod, t.mul, t.inc, t.state, h⟩

theorem SameUnconfigured.refl (s : State) : SameUnconfigured s s := .inl rfl

theorem SameUnconfigured.withData {s : State} (h : s.cfgValid = false) (m a c x : Word) :
    SameUnconfigured s (s.withData m a c x) :=
  .inr ⟨h, rfl⟩

/-- An outcome is related to itself, by any relation that relates every state to itself. -/
theorem OutcomesRelated.refl {rel : State → State → Prop} (hrel : ∀ s, rel s s)
    (o : Host.Outcome State Fault Refusal) : OutcomesRelated rel o o := by
  cases o with
  | next s => exact hrel s
  | fault r => exact rfl
  | refused r => exact rfl

/-- Two outcomes that are related next states are related. -/
theorem OutcomesRelated.of_next {rel : State → State → Prop} {o o' : Host.Outcome State Fault Refusal} {s t : State}
    (ho : o = .next s) (ho' : o' = .next t) (h : rel s t) : OutcomesRelated rel o o' := by
  rw [ho, ho']
  exact h

/-! ### Commands and steps -/

section
variable {s : State} (hc : s.cfgValid = false) (m a c x : Word)
include hc

/-- A configuration overwrites the data registers, and a refused one leaves them as they were. -/
theorem configureChecked_withData (m' a' c' seed : Word) :
    SameUnconfigured (configureChecked m' a' c' seed s) (configureChecked m' a' c' seed (s.withData m a c x)) := by
  rcases configureChecked_cases m' a' c' seed s with ⟨hv, hp, he⟩ | ⟨hacc, he⟩
  · rw [he, configureChecked_of_invalid (s := s.withData m a c x) hv hp]
    exact .withData (s := s.raise .invalidParam) hc m a c x
  · rw [he, configureChecked_of_accepts (s := s.withData m a c x) hacc]
    exact .refl _

/-- No command of an unconfigured running block depends on the data registers: NOP and CFG_* do not read them, and
STEP stops before it would (R68). -/
theorem exec_withData (hf : s.Running) (i : Instr) :
    OutcomesRelated SameUnconfigured (exec i s) (exec i (s.withData m a c x)) := by
  have hf' : (s.withData m a c x).Running := hf
  cases i with
  | nop => exact .of_next (exec_nop_of_running hf) (exec_nop_of_running hf') (.withData hc m a c x)
  | cfgDefault seed =>
    exact .of_next (exec_cfgDefault_of_running hf seed) (exec_cfgDefault_of_running hf' seed) (.refl _)
  | cfgFull m' a' c' seed =>
    exact .of_next (exec_cfgFull_of_running hf m' a' c' seed) (exec_cfgFull_of_running hf' m' a' c' seed)
      (configureChecked_withData hc m a c x m' a' c' seed)
  | step =>
    exact .of_next (execStep_of_not_configured hf hc) (execStep_of_not_configured hf' hc)
      (.withData (s := s.raise .notConfigured) hc m a c x)

/-- No step of an unconfigured block depends on the data registers. -/
theorem step_withData : OutcomesRelated SameUnconfigured (step s) (step (s.withData m a c x)) := by
  cases hr : s.resetLine with
  | true => exact .of_next (step_of_resetLine hr) (step_of_resetLine (s := s.withData m a c x) hr) (.refl _)
  | false =>
    cases hcmd : s.commands with
    | nil =>
      exact .of_next (step_of_idle hr hcmd) (step_of_idle (s := s.withData m a c x) hr hcmd) (.withData hc m a c x)
    | cons cmd rest =>
      cases hf : s.faulted with
      | true =>
        rw [step_of_halted hr hcmd hf, step_of_halted (s := s.withData m a c x) hr hcmd hf]
        exact rfl
      | false =>
        cases hd : decode cmd with
        | illegal why =>
          exact .of_next (step_of_illegal hr hcmd hf hd) (step_of_illegal (s := s.withData m a c x) hr hcmd hf hd)
            (.withData (s := (s.accept rest).raise .illegalCmd) hc m a c x)
        | command i =>
          rw [step_of_command hr hcmd hf hd, step_of_command (s := s.withData m a c x) hr hcmd hf hd]
          exact exec_withData (s := s.accept rest) hc m a c x hf i

end

/-- A host action neither reads nor writes the data registers. -/
theorem State.hostAct_withData (act : HostAction) (m a c x : Word) (s : State) :
    (s.withData m a c x).hostAct act = (s.hostAct act).withData m a c x := by
  cases act <;> rfl

/-- Settles O43: STATUS and the responses are no data registers, and neither a step nor a host action of an
unconfigured block depends on them. -/
theorem unconfiguredRegistersUnobservable : Obligations.UnconfiguredRegistersUnobservable := by
  unfold Obligations.UnconfiguredRegistersUnobservable
  rintro s t (rfl | ⟨hc, hdata⟩)
  · exact ⟨rfl, .refl .refl _, fun act => .refl _⟩
  · obtain ⟨m, a, c, x, rfl⟩ := hdata.exists_withData
    refine ⟨rfl, step_withData hc m a c x, fun act => ?_⟩
    rw [State.hostAct_withData]
    exact .withData ((s.hostAct_cfgValid act).trans hc) m a c x

end Sys2Proof.Machine
end

section
/-! PROOFS. The host side but next.double: the integer derivations, the sequence they draw, the two-int composition
(42_host_derivations.md), and the bytes of a word on the host's bus (20_memory.md section 2). -/

namespace Sys2Proof.Machine

/-! ### next.int and next.bool as bits of the response (R78, R79) -/

/-- The bits of next.int are the upper half of the response. -/
theorem nextIntBits_eq_extractLsb' (r : Word) : nextIntBits r = r.extractLsb' 32 32 := by
  apply BitVec.eq_of_getLsbD_eq
  intro i hi
  simp [nextIntBits]

theorem nextInt_eq (r : Word) : nextInt r = (r.extractLsb' 32 32).toInt := by
  rw [nextInt, nextIntBits_eq_extractLsb']

/-- next.bool is bit 32 of the response. -/
theorem nextBool_eq_getLsbD (r : Word) : nextBool r = r.getLsbD 32 := by
  simp [nextBool, nextIntBits_eq_extractLsb']

/-- A response below 2^32 has an upper half of 0. -/
theorem nextIntBits_eq_zero {r : Word} (h : uval r < 2 ^ 32) : nextIntBits r = 0#32 := by
  apply BitVec.eq_of_toNat_eq
  rw [nextIntBits_eq_extractLsb', BitVec.extractLsb'_toNat, Nat.shiftRight_eq_div_pow, Nat.div_eq_of_lt h]
  rfl

theorem nextInt_eq_zero {r : Word} (h : uval r < 2 ^ 32) : nextInt r = 0 := by
  rw [nextInt, nextIntBits_eq_zero h, BitVec.toInt_zero]

theorem nextBool_eq_false {r : Word} (h : uval r < 2 ^ 32) : nextBool r = false := by
  rw [nextBool, nextIntBits_eq_zero h, BitVec.getLsbD_zero]

/-- Settles O44: next.long and next.int read bits signed; below a modulus of at most 2^32 the upper half is 0. -/
theorem hostIntegerDerivations : Obligations.HostIntegerDerivations := by
  unfold Obligations.HostIntegerDerivations
  refine ⟨fun r => ⟨rfl, BitVec.ofInt_toInt⟩, nextInt_eq, nextBool_eq_getLsbD,
    fun r h => ⟨nextInt_eq_zero h, nextBool_eq_false h⟩, ?_⟩
  intro m a c seed k hm hle
  exact ⟨nextInt_eq_zero ((lcgSeq_succ_lt hm a c seed k).trans_le hle), nextInt_eq_zero⟩

/-! ### Derivations draw the sequence (R84, R85) -/

/-- The lowest bit of a word is the parity of its signed reading. -/
theorem getLsbD_zero_eq_decide_toInt (b : BitVec 32) : b.getLsbD 0 = decide (b.toInt % 2 = 1) := by
  rw [BitVec.toInt_eq_toNat_bmod, BitVec.getLsbD, Nat.testBit_zero, decide_eq_decide, Int.bmod]
  omega

/-- A derivation of a block that can step takes the STEP's response, the STATE before it. -/
theorem State.CanStep.hostNext_eq {s : State} (h : s.CanStep) (arith : Config.HostDoubleArith) (d : Derivation) :
    hostNext arith d s = some (derive arith d s.state, s.advance) := by
  simp [hostNext, h.exec_step, responseAdded]

/-- The results of a list of derivations of the successive values from the seed on. -/
def deriveSeq (arith : Config.HostDoubleArith) (m a c seed : Word) (ds : List Derivation) : List HostResult :=
  ds.zipIdx.map fun dk => derive arith dk.1 (lcgSeq m a c seed dk.2)

/-- The first derivation takes the seed, the others the sequence from its second value on. -/
theorem deriveSeq_cons (arith : Config.HostDoubleArith) (m a c seed : Word) (d : Derivation) (ds : List Derivation) :
    deriveSeq arith m a c seed (d :: ds) =
      derive arith d seed :: deriveSeq arith m a c (lcgNext m a c seed) ds := by
  simp [deriveSeq, List.zipIdx_succ, lcgSeq_lcgNext, lcgSeq]

/-- Derivations of a block that can step are those of the values its STEPs respond, and leave its STEPs' state. -/
theorem State.CanStep.hostNexts_eq {s : State} (h : s.CanStep) (arith : Config.HostDoubleArith)
    (ds : List Derivation) :
    hostNexts arith ds s = some (deriveSeq arith s.mod s.mul s.inc s.state ds, s.advanceBy ds.length) := by
  induction ds generalizing s with
  | nil => rw [List.length_nil, State.advanceBy_zero]; rfl
  | cons d ds ih =>
    rw [hostNexts, h.hostNext_eq, deriveSeq_cons, List.length_cons, State.advanceBy_succ]
    simp [ih h.advance]

/-- Settles O45: each derivation is one STEP, and the flags and VALIDATE_PARAMS are as before; next.bool is the lowest
bit of next.int. -/
theorem hostDerivationsDrawTheSequence : Obligations.HostDerivationsDrawTheSequence := by
  unfold Obligations.HostDerivationsDrawTheSequence
  refine ⟨?draw, fun r => getLsbD_zero_eq_decide_toInt (nextIntBits r), ?upper⟩
  case draw =>
    intro arith ds s hf hc hm
    have hs : s.CanStep := ⟨hf, hc, hm⟩
    exact ⟨s.advanceBy ds.length, hs.hostNexts_eq arith ds, hs.execTimes_step ds.length, rfl⟩
  case upper =>
    intro r
    rw [nextInt_eq, BitVec.ofInt_toInt]

/-! ### The two-int composition (R82) -/

/-- The low half of a composition is zero-extended, so the halves do not overlap. -/
theorem longFromInts_eq_append (high low : BitVec 32) : longFromInts high low = high ++ low := by
  apply BitVec.eq_of_getLsbD_eq
  intro i hi
  rw [longFromInts, BitVec.getLsbD_append]
  by_cases hlow : i < 32
  · simp [hlow, hi]
  · have hge : low.getLsbD i = false := BitVec.getLsbD_of_ge low i (by omega)
    simp [hlow, hi, hge]

/-- Settles O46: the composition is the concatenation, and next.int's bits are a response's upper half. -/
theorem longFromTwoInts : Obligations.LongFromTwoInts := by
  unfold Obligations.LongFromTwoInts
  refine ⟨longFromInts_eq_append, fun r1 r2 => ?_⟩
  rw [longFromInts_eq_append, nextIntBits_eq_extractLsb', nextIntBits_eq_extractLsb']

/-! ### The bytes of a word on the host's bus (log entry 11) -/

theorem length_bytesOf (n v : Nat) : (bytesOf n v).length = n := by
  induction n generalizing v with
  | zero => rfl
  | succ n ih => rw [bytesOf, List.length_cons, ih]

/-- The low `n` bytes of a value of `n` bytes give it back. -/
theorem ofBytes_bytesOf {n v : Nat} (h : v < 256 ^ n) : ofBytes (bytesOf n v) = v := by
  induction n generalizing v with
  | zero => rw [Nat.pow_zero, Nat.lt_one_iff] at h; rw [h]; rfl
  | succ n ih =>
    have hdiv : v / 256 < 256 ^ n := Nat.div_lt_of_lt_mul (by rwa [Nat.mul_comm, ← Nat.pow_succ])
    rw [bytesOf, ofBytes, ih hdiv, BitVec.toNat_ofNat, Nat.mod_add_div]

/-- Settles O49: the big order is the little one reversed. -/
theorem busBytesRoundTrip : Obligations.BusBytesRoundTrip := by
  unfold Obligations.BusBytesRoundTrip
  refine ⟨?roundTrip, fun n v => ⟨rfl, ?last⟩⟩
  case roundTrip =>
    intro order n v h
    cases order with
    | little => exact ⟨length_bytesOf n v, ofBytes_bytesOf h⟩
    | big =>
      rw [busBytes, busValue, List.length_reverse, List.reverse_reverse]
      exact ⟨length_bytesOf n v, ofBytes_bytesOf h⟩
  case last => rw [busBytes, List.getLast?_reverse, bytesOf, List.head?_cons]

end Sys2Proof.Machine
end

section
/-! PROOFS. The range of next.double under the Java reading (42_host_derivations.md, log entry 9). LONG_MAX is rounded
to 2^63; an absolute value that rounds to at most 2^63 - 1024 gives a quotient whose significand does not carry into
the exponent of 1.0. -/

namespace Sys2Proof.Machine

/-! ### Rounding to nearest -/

/-- What is less than half a unit above `k` units rounds to at most `k`. -/
theorem roundShift_le_of_lt_half {n e k : Nat} (h : 2 * n < (2 * k + 1) * 2 ^ e) : roundShift n e ≤ k := by
  have hpos : 0 < 2 ^ e := Nat.two_pow_pos e
  have hdiv : 2 ^ e * (n / 2 ^ e) + n % 2 ^ e = n := Nat.div_add_mod n (2 ^ e)
  have hle : n / 2 ^ e < k + 1 := (Nat.div_lt_iff_lt_mul hpos).mpr (by linarith)
  simp only [roundShift]
  rcases (Nat.lt_succ_iff.mp hle).lt_or_eq with hlt | heq
  · split <;> omega
  · rw [heq] at hdiv ⊢
    have hrem : 2 * (n % 2 ^ e) < 2 ^ e := by linarith
    rw [if_neg (by omega)]

/-- What is at most `k` units rounds to at most `k`. -/
theorem roundShift_le {n e k : Nat} (h : n ≤ k * 2 ^ e) : roundShift n e ≤ k :=
  roundShift_le_of_lt_half (by linarith [Nat.two_pow_pos e])

/-- With the leading bit at 62, the last 10 of the 63 bits are past the significand. -/
theorem round53_of_leading_bit_62 {n : Nat} (hlo : 2 ^ 62 ≤ n) (hhi : n < 2 ^ 63) :
    round53 n = roundShift n 10 * 2 ^ 10 := by
  have hlog : n.log2 = 62 := (Nat.log2_eq_iff (by omega)).mpr ⟨hlo, hhi⟩
  rw [round53, hlog]

/-- From half a unit below 2^63 on, the tie included, rounding gives 2^63. -/
theorem round53_eq_two_pow {n : Nat} (hlo : 2 ^ 63 - 512 ≤ n) (hhi : n < 2 ^ 63) : round53 n = 2 ^ 63 := by
  have hround : roundShift n 10 = 2 ^ 53 := by
    simp only [roundShift]
    split <;> omega
  rw [round53_of_leading_bit_62 (by omega) hhi, hround]
  rfl

/-- A number is at most 2^53 of the units that its own rounding uses. -/
theorem le_two_pow_mul_unit (n : Nat) : n ≤ 2 ^ 53 * 2 ^ (n.log2 - 52) :=
  calc n ≤ 2 ^ (n.log2 + 1) := Nat.lt_log2_self.le
    _ ≤ 2 ^ (53 + (n.log2 - 52)) := Nat.pow_le_pow_right (by decide) (by omega)
    _ = 2 ^ 53 * 2 ^ (n.log2 - 52) := Nat.pow_add 2 53 _

/-- Below that half unit rounding stays at most the double before 2^63. -/
theorem round53_le {n : Nat} (h : n < 2 ^ 63 - 512) : round53 n ≤ 2 ^ 63 - 1024 := by
  rcases Nat.lt_or_ge n (2 ^ 62) with hsmall | hlarge
  · have hlog : n.log2 - 52 ≤ 9 := by
      rcases Nat.eq_zero_or_pos n with rfl | hpos
      · decide
      · have := (Nat.log2_lt hpos.ne').mpr hsmall
        omega
    calc round53 n ≤ 2 ^ 53 * 2 ^ 9 :=
          Nat.mul_le_mul (roundShift_le (le_two_pow_mul_unit n)) (Nat.pow_le_pow_right (by decide) hlog)
      _ ≤ 2 ^ 63 - 1024 := by decide
  · have hround : roundShift n 10 ≤ 2 ^ 53 - 1 := roundShift_le_of_lt_half (by omega)
    rw [round53_of_leading_bit_62 hlarge (by omega)]
    omega

/-! ### The quotient by 2^63 -/

/-- Scaling by a negative power of 2 multiplies the numerator. -/
theorem scaleRatio_neg (n d k : Nat) : scaleRatio n d (-k) = (n * 2 ^ k, d) := by
  simp [scaleRatio]

/-- Dividing by 2^63 is rounding to units of 2^63, after the leading bit of `n` was moved to bit 115. -/
theorem binary64Ratio_two_pow {n : Nat} (hn : n ≠ 0) (hlog : n.log2 ≤ 62) :
    binary64Ratio false n (2 ^ 63) =
      BitVec.ofNat 64 ((n.log2 + 959) * 2 ^ 52 + roundShift (n * 2 ^ (115 - n.log2)) 63) := by
  have hd : (2 ^ 63 : Nat).log2 = 63 := Nat.log2_two_pow
  have he0 : (n.log2 : Int) - (63 : Nat) - 53 = -((116 - n.log2 : Nat) : Int) := by omega
  have he : -((116 - n.log2 : Nat) : Int) + 1 = -((115 - n.log2 : Nat) : Int) := by omega
  have hexp : (-((115 - n.log2 : Nat) : Int) + 1074).toNat = n.log2 + 959 := by omega
  have hwide : 2 ^ 53 ≤ n * 2 ^ (116 - n.log2) / 2 ^ 63 := by
    rw [Nat.le_div_iff_mul_le (by decide)]
    calc 2 ^ 53 * 2 ^ 63 = 2 ^ (n.log2 + (116 - n.log2)) := by rw [Nat.add_sub_cancel' (by omega), ← Nat.pow_add]
      _ = 2 ^ n.log2 * 2 ^ (116 - n.log2) := Nat.pow_add 2 _ _
      _ ≤ n * 2 ^ (116 - n.log2) := Nat.mul_le_mul_right _ (Nat.log2_self_le hn)
  simp only [binary64Ratio, if_neg hn, hd, he0, scaleRatio_neg, if_pos hwide, he, hexp, roundShift]
  simp

/-- A quotient of at most (2^63 - 1024) / 2^63 lies below 1.0: its significand is at most 2^53, and at most 2^53 - 1
where its exponent is the one below that of 1.0. -/
theorem binary64Ratio_lt_one {n : Nat} (h : n ≤ 2 ^ 63 - 1024) :
    uval (binary64Ratio false n (2 ^ 63)) < 0x3FF0000000000000 := by
  rcases Nat.eq_zero_or_pos n with rfl | hpos
  · decide
  have hlog : n.log2 < 63 := (Nat.log2_lt hpos.ne').mpr (by omega)
  rw [binary64Ratio_two_pow hpos.ne' (by omega), uval, BitVec.toNat_ofNat]
  refine (Nat.mod_le _ _).trans_lt ?_
  rcases Nat.lt_or_ge n.log2 62 with hlow | htop
  · have hsig : roundShift (n * 2 ^ (115 - n.log2)) 63 ≤ 2 ^ 53 := by
      refine roundShift_le ?_
      calc n * 2 ^ (115 - n.log2) ≤ 2 ^ (n.log2 + 1) * 2 ^ (115 - n.log2) := Nat.mul_le_mul_right _ Nat.lt_log2_self.le
        _ = 2 ^ (n.log2 + 1 + (115 - n.log2)) := (Nat.pow_add 2 _ _).symm
        _ = 2 ^ 53 * 2 ^ 63 := by rw [show n.log2 + 1 + (115 - n.log2) = 53 + 63 by omega, Nat.pow_add]
    omega
  · have hlog62 : n.log2 = 62 := by omega
    have hsig : roundShift (n * 2 ^ (115 - n.log2)) 63 ≤ 2 ^ 53 - 1 := by
      rw [hlog62]
      exact roundShift_le (by omega)
    omega

/-! ### next.double -/

/-- LONG_MAX rounds to 2^63. -/
theorem javaToDouble_longMax : javaToDouble longMax = 2 ^ 63 := by decide

/-- Only the response 2^63 reads as the most negative integer. -/
theorem sval_ne_min {r : Word} (h : r ≠ 0x8000000000000000#64) : sval r ≠ -(2 ^ 63) := fun hv =>
  h (BitVec.eq_of_toInt_eq (hv.trans (by decide)))

/-- The absolute value of a response other than 2^63. -/
theorem javaAbs_sval {r : Word} (h : r ≠ 0x8000000000000000#64) : javaAbs (sval r) = (sval r).natAbs := by
  rw [javaAbs, if_neg (sval_ne_min h)]
  split <;> omega

theorem natAbs_sval_lt {r : Word} (h : r ≠ 0x8000000000000000#64) : (sval r).natAbs < 2 ^ 63 := by
  have hlo : -(2 ^ 63) ≤ sval r := BitVec.le_toInt r
  have hhi : sval r < 2 ^ 63 := BitVec.toInt_lt
  have := sval_ne_min h
  omega

/-- next.double of a response other than 2^63: its absolute value, rounded to a double, over 2^63. -/
theorem nextDouble_javaArith {r : Word} (h : r ≠ 0x8000000000000000#64) :
    nextDouble javaArith r = binary64Ratio false (round53 (sval r).natAbs) (2 ^ 63) := by
  have habs : javaToDouble (javaAbs (sval r)) = (round53 (sval r).natAbs : Int) := by
    rw [javaAbs_sval h, javaToDouble, if_neg (by omega), Int.natAbs_natCast]
  change javaDiv (javaToDouble (javaAbs (sval r))) (javaToDouble longMax) = _
  rw [habs, javaToDouble_longMax, javaDiv, decide_eq_false (by omega)]
  rfl

/-- Settles O47: the four cases of the response; all but the first by its absolute value rounded to a double. -/
theorem nextDoubleRange : Obligations.NextDoubleRange := by
  unfold Obligations.NextDoubleRange
  intro r
  split_ifs with hmin htop hzero
  · rw [hmin]; decide
  · rw [nextDouble_javaArith hmin, round53_eq_two_pow htop (natAbs_sval_lt hmin)]
    decide
  · rw [hzero]; decide
  · rw [nextDouble_javaArith hmin]
    exact binary64Ratio_lt_one (round53_le (by omega))

end Sys2Proof.Machine
end
